-- ==== Sys2Proof/Word.lean ====
section
/-! DEFINITION. The word types of the device (00_scope.md R1, R2) and the plainest arithmetic on them. -/

namespace Sys2Proof

/-- A byte of any memory of the device. -/
abbrev Byte := BitVec 8
/-- A 32-bit word: a lane of a tile, an op word, an extension word. -/
abbrev W32 := BitVec 32
/-- A 64-bit word: a scalar register, a device address, a package register. -/
abbrev Word := BitVec 64
/-- A guard predicate field, [25:22] of an op word (R268). -/
abbrev Guard := BitVec 4
/-- A scalar register field (R269). -/
abbrev SReg := BitVec 6
/-- A tile operand field (R272). -/
abbrev TileOp := BitVec 7

/-- Bits [hi:lo] of a word as a number (R1). -/
def Word.bits (w : Word) (hi lo : Nat) : Nat := (w.toNat >>> lo) % 2 ^ (hi + 1 - lo)

/-- Bit n of a word (R1). -/
def Word.bit (w : Word) (n : Nat) : Bool := w.getLsbD n

/-- `w` with bits [hi:lo] replaced by the low bits of `v` (R1). -/
def Word.setBits (w : Word) (hi lo v : Nat) : Word :=
  let m := 2 ^ (hi + 1 - lo)
  BitVec.ofNat 64 (w.toNat - (w.toNat >>> lo) % m * 2 ^ lo + v % m * 2 ^ lo)

end Sys2Proof
end

