-- ==== Sys2Proof/Machine/Num.lean ====
section
/-! DEFINITION. Number formats and exact arithmetic (09_numbers.md R211 to R217): exact values as signed fractions, one
rounding, and the flags of each result. -/

namespace Sys2Proof.Machine

/-- An exact value: NaN (with whether it was signalling), an infinity, or `±n/d` (a zero keeps its sign). -/
inductive Exact where
  | nan (sig : Bool)
  | inf (neg : Bool)
  | fin (neg : Bool) (n d : Nat)
  deriving DecidableEq, Repr

/-- The five sticky flags of CTX_STATUS [4:0]: NX UF OF DZ NV (R187). -/
abbrev Flags := BitVec 5
def flagNV : Flags := 1
def flagDZ : Flags := 2
def flagOF : Flags := 4
def flagUF : Flags := 8
def flagNX : Flags := 16

/-- A binary floating-point format: fraction bits, exponent bias, largest finite code, the code of infinity if it has
one, and the NaN the device writes (R212, R213). -/
structure Fmt where
  m      : Nat
  eb     : Nat
  bias   : Nat
  maxMag : Nat
  infMag : Option Nat
  nan    : Nat
  /-- FZ acts on FP32 and BF16 only (R216) -/
  fz     : Bool
  deriving DecidableEq, Repr

def fp32 : Fmt := ⟨23, 8, 127, 0x7F7FFFFF, some 0x7F800000, 0x7FC00000, true⟩
def bf16 : Fmt := ⟨7, 8, 127, 0x7F7F, some 0x7F80, 0x7FC0, true⟩
def e4m3 : Fmt := ⟨3, 4, 7, 0x7E, none, 0x7F, false⟩
def e5m2 : Fmt := ⟨2, 5, 15, 0x7B, some 0x7C, 0x7F, false⟩

def Fmt.width (f : Fmt) : Nat := 1 + f.eb + f.m

/-- Rounding mode, SAT and FZ of a format register (R231). -/
structure Rnd where
  rm  : Nat
  sat : Bool
  fz  : Bool
  deriving DecidableEq, Repr

/-- RNE without SAT and FZ, the rounding of the matrix engine and the reduction units (R223, R379). -/
def rne : Rnd := ⟨0, false, false⟩

/-- Floor of the base-2 logarithm of a positive number. -/
def log2 (n : Nat) : Nat := Nat.log2 n

/-- floor(log2(n/d)) for positive n, d. -/
def ilog2 (n d : Nat) : Int :=
  let e : Int := (log2 n : Int) - (log2 d : Int)
  -- n/d lies in (2^(e-1), 2^(e+1))
  let below := if e ≥ 0 then n < d * 2 ^ e.toNat else n * 2 ^ (-e).toNat < d
  if below then e - 1 else e

/-- Whether a remainder r of den rounds the integer quotient q up in magnitude (R215). -/
def roundUp (rm : Nat) (neg : Bool) (q r den : Nat) : Bool :=
  if r = 0 then false
  else match rm with
    | 0 => if 2 * r = den then q % 2 == 1 else decide (2 * r > den)
    | 1 => false
    | 2 => !neg
    | _ => neg

/-- n/d over 2^u, rounded to an integer, and whether it was exact. -/
def roundInt (rm : Nat) (neg : Bool) (n d : Nat) (u : Int) : Nat × Bool :=
  let num := if u ≥ 0 then n else n * 2 ^ (-u).toNat
  let den := if u ≥ 0 then d * 2 ^ u.toNat else d
  let q := num / den
  let r := num % den
  (if roundUp rm neg q r den then q + 1 else q, r == 0)

/-- The value an overflowing or infinite magnitude takes (R215's table), as a magnitude code or the NaN code. -/
def overflowCode (f : Fmt) (r : Rnd) (neg : Bool) : Nat :=
  let s := if neg then 2 ^ (f.eb + f.m) else 0
  let toInf := if r.sat then false else
    match r.rm with
    | 0 => true
    | 1 => false
    | 2 => !neg
    | _ => neg
  if toInf then
    match f.infMag with
    | some i => s + i
    | none => f.nan
  else s + f.maxMag

/-- One rounding of an exact value to a format, with its flags (R215, R216). -/
def encodeNum (f : Fmt) (r : Rnd) (x : Exact) : Nat × Flags :=
  match x with
  | .nan sig => (f.nan, if sig then flagNV else 0)
  | .inf neg =>
    if r.sat || f.infMag.isNone then
      (if r.sat then (if neg then 2 ^ (f.eb + f.m) else 0) + f.maxMag else overflowCode f r neg, flagNV)
    else (match f.infMag with
      | some i => (if neg then 2 ^ (f.eb + f.m) else 0) + i
      | none => f.nan, 0)
  | .fin neg n d =>
    let s := if neg then 2 ^ (f.eb + f.m) else 0
    if n = 0 then (s, 0)
    else
      let e := ilog2 n d
      let emin : Int := 1 - (f.bias : Int)
      let umin : Int := emin - f.m
      -- rounding with an unbounded exponent, for overflow and tininess
      let (qu, _) := roundInt r.rm neg n d (e - f.m)
      let eu : Int := if qu = 2 ^ (f.m + 1) then e + 1 else e
      let u : Int := if e < emin then umin else e - f.m
      let (q, exact) := roundInt r.rm neg n d u
      let code := q + (u - umin).toNat * 2 ^ f.m
      if code > f.maxMag then (overflowCode f r neg, flagOF ||| flagNX)
      else if r.fz && f.fz && code < 2 ^ f.m then (s, flagUF ||| flagNX)
      else
        let tiny := decide (eu < emin)
        let fl : Flags := if exact then 0 else if tiny && !(r.fz && f.fz) then flagUF ||| flagNX else flagNX
        (s + code, fl)

/-- The exact value of a code (R212, R213); a NaN signals when its leading fraction bit is clear (see the log); under FZ a subnormal FP32 or BF16 operand reads as zero (R216). -/
def decodeNum (f : Fmt) (fz : Bool) (c : Nat) : Exact :=
  let neg := (c >>> (f.eb + f.m)) % 2 == 1
  let mag := c % 2 ^ (f.eb + f.m)
  let e := mag >>> f.m
  let fr := mag % 2 ^ f.m
  let isSpecial := match f.infMag with
    | some i => decide (mag ≥ i)
    | none => decide (mag > f.maxMag)
  if isSpecial then
    (if f.infMag = some mag then .inf neg else .nan (decide (fr < 2 ^ (f.m - 1))))
  else if e = 0 then
    (if fz && f.fz then .fin neg 0 1 else .fin neg fr (2 ^ (f.bias + f.m - 1)))
  else
    let sig := 2 ^ f.m + fr
    let x : Int := (e : Int) - f.bias - f.m
    if x ≥ 0 then .fin neg (sig * 2 ^ x.toNat) 1 else .fin neg sig (2 ^ (-x).toNat)

namespace Exact

def isNaN : Exact → Bool
  | .nan _ => true
  | _ => false
def isSig : Exact → Bool
  | .nan s => s
  | _ => false
def isNeg : Exact → Bool
  | .nan _ => false
  | .inf n => n
  | .fin n _ _ => n
def isZero : Exact → Bool
  | .fin _ n _ => n == 0
  | _ => false

def negate : Exact → Exact
  | .nan s => .nan s
  | .inf n => .inf (!n)
  | .fin n a b => .fin (!n) a b
def absVal : Exact → Exact
  | .nan s => .nan s
  | .inf _ => .inf false
  | .fin _ a b => .fin false a b

/-- Signed numerator over a common denominator. -/
def sgn (neg : Bool) (n : Nat) : Int := if neg then -(n : Int) else n

/-- The exact sum. An exact zero is +0, but −0 when both summands are −0; `down` is rounding toward −∞, under which
an exact zero of summands that are not all +0 is −0 (R310). -/
def add (down : Bool) (x y : Exact) : Exact :=
  match x, y with
  | .nan s, .nan t => .nan (s || t)
  | .nan s, _ => .nan s
  | _, .nan t => .nan t
  | .inf a, .inf b => if a = b then .inf a else .nan true
  | .inf a, _ => .inf a
  | _, .inf b => .inf b
  | .fin a n d, .fin b m e =>
    let v : Int := sgn a n * e + sgn b m * d
    if v = 0 then
      .fin (if n = 0 && m = 0 && a == b then a else down) 0 1
    else .fin (decide (v < 0)) v.natAbs (d * e)

/-- The exact sum of elements: under rounding toward −∞ every exact zero sum is −0 (R322; see the log). -/
def plus (down : Bool) (x y : Exact) : Exact := if down && (x.add down y).isZero then .fin true 0 1 else x.add down y

/-- The exact product; ∞ × 0 is an invalid operation. -/
def mul (x y : Exact) : Exact :=
  match x, y with
  | .nan s, .nan t => .nan (s || t)
  | .nan s, _ => .nan s
  | _, .nan t => .nan t
  | .inf a, .inf b => .inf (a != b)
  | .inf a, .fin b n _ => if n = 0 then .nan true else .inf (a != b)
  | .fin a n _, .inf b => if n = 0 then .nan true else .inf (a != b)
  | .fin a n d, .fin b m e => .fin (a != b) (n * m) (d * e)

/-- Whether x < y as exact values, neither NaN; −0 equals +0. -/
def lt (x y : Exact) : Bool :=
  match x, y with
  | .nan _, _ => false
  | _, .nan _ => false
  | .inf a, .inf b => a && !b
  | .inf a, .fin .. => a
  | .fin .., .inf b => !b
  | .fin a n d, .fin b m e => decide (sgn a n * (e : Int) < sgn b m * (d : Int))

def eq (x y : Exact) : Bool := !x.isNaN && !y.isNaN && !x.lt y && !y.lt x

/-- An integer as an exact value. -/
def ofInt (v : Int) : Exact := .fin (decide (v < 0)) v.natAbs 1

end Exact

/-- Conversion of an exact value to a w-bit two's-complement integer (R217). -/
def toIntFmt (w : Nat) (r : Rnd) (x : Exact) : Nat × Flags :=
  let lo : Int := -(2 ^ (w - 1) : Nat)
  let hi : Int := (2 ^ (w - 1) : Nat) - 1
  let enc (v : Int) : Nat := (v % (2 ^ w : Nat)).toNat
  match x with
  | .nan _ => (0, flagNV)
  | .inf neg => (enc (if neg then lo else hi), flagNV)
  | .fin neg n d =>
    let (q, exact) := roundInt r.rm neg n d 0
    let v : Int := Exact.sgn neg q
    if v < lo then (enc (if r.sat then lo else v), flagNV)
    else if v > hi then (enc (if r.sat then hi else v), flagNV)
    else (enc v, if exact then 0 else flagNX)

/-- The signed value of the low w bits. -/
def toSigned (w c : Nat) : Int :=
  let c := c % 2 ^ w
  if c < 2 ^ (w - 1) then (c : Int) else (c : Int) - (2 ^ w : Nat)

/-- Two's complement of an integer in w bits. -/
def ofSigned (w : Nat) (v : Int) : Nat := (v % (2 ^ w : Nat)).toNat

end Sys2Proof.Machine
end

