-- ==== Sys2Proof/Machine/Special.lean ====
section
/-! DEFINITION. Exactly rounded special functions and the phasor tables (R228, R229, R230, R338). An irrational value
is taken as its floor in fixed point with a one after it: it lies strictly between neighbours at every precision a
format rounds to, so the one rounding that follows is right (R215). -/

namespace Sys2Proof.Machine

/-- Working precision of the fixed-point series, and the precision of the result they give. -/
def wp : Nat := 300
def rp : Nat := 224

/-- Integer square root: the largest r with r² ≤ n, by bits from 2^k down. -/
def isqrtGo (n : Nat) : Nat → Nat → Nat
  | 0, acc => acc
  | k + 1, acc =>
    let t := acc + 2 ^ k
    isqrtGo n k (if t * t ≤ n then t else acc)
def isqrt (n : Nat) : Nat := isqrtGo n (log2 n / 2 + 2) 0

/-- floor(x · 2^rp) of an irrational, as an exact value that every later rounding treats as the irrational itself. -/
def sticky (neg : Bool) (q : Nat) (p : Nat) : Exact := .fin neg (2 * q + 1) (2 ^ (p + 1))

/-- atanh series: Σ z^(2i+1)/(2i+1), fixed point with `wp` bits, `k` terms. -/
def atanhGo (z2 : Nat) : Nat → Nat → Nat → Nat → Nat
  | 0, _, _, acc => acc
  | k + 1, t, i, acc => atanhGo z2 k (t * z2 / 2 ^ wp) (i + 2) (acc + t / i)
def atanhFix (z : Nat) : Nat := atanhGo (z * z / 2 ^ wp) 200 z 1 0
/-- ln 2 = 2·atanh(1/3). -/
def ln2Fix : Nat := 2 * atanhFix (2 ^ wp / 3)

def expGo (y : Nat) : Nat → Nat → Nat → Nat → Nat
  | 0, _, _, acc => acc
  | k + 1, t, i, acc => expGo y k (t * y / 2 ^ wp / i) (i + 1) (acc + t)
/-- e^y for 0 ≤ y < 1, fixed point. -/
def expFix (y : Nat) : Nat := expGo y 80 (2 ^ wp) 1 0

/-- 2^x, exact when x is an integer (R338). -/
def exp2Num (x : Exact) : Exact :=
  match x with
  | .nan s => .nan s
  | .inf neg => if neg then .fin false 0 1 else .inf false
  | .fin neg n d =>
    let v : Int := Exact.sgn neg n
    let e : Int := v / (d : Int)
    let fr : Nat := (v - e * d).toNat
    -- far beyond every format: the exponent is bounded so that the fraction stays small
    let e := if e > 400 then 400 else if e < -400 then -400 else e
    let scale (q p : Nat) : Exact :=
      if e ≥ 0 then .fin false (q * 2 ^ e.toNat) (2 ^ p) else .fin false q (2 ^ (p + (-e).toNat))
    if fr = 0 then scale 1 0
    else
      let y := fr * 2 ^ wp / d * ln2Fix / 2 ^ wp
      let q := expFix y / 2 ^ (wp - rp)
      scale (2 * q + 1) (rp + 1)

/-- log2(x) for x > 0 (R338): exact for a power of two; flags for the special operands. -/
def log2Num (x : Exact) : Exact × Flags :=
  match x with
  | .nan s => (.nan s, 0)
  | .inf neg => if neg then (.nan true, 0) else (.inf false, 0)
  | .fin neg n d =>
    if n = 0 then (.inf true, flagDZ)
    else if neg then (.nan true, 0)
    else
      let e := ilog2 n d
      let num := if e ≥ 0 then n else n * 2 ^ (-e).toNat
      let den := if e ≥ 0 then d * 2 ^ e.toNat else d
      if num = den then (.ofInt e, 0)
      else
        let z := (num - den) * 2 ^ wp / (num + den)
        let l : Nat := 2 * atanhFix z * 2 ^ wp / ln2Fix
        let v : Int := e * (2 ^ rp : Nat) + (l / 2 ^ (wp - rp) : Nat)
        if v ≥ 0 then (sticky false v.toNat rp, 0) else (sticky true (-v - 1).toNat rp, 0)

/-- 1/x (R338). -/
def rcpNum (x : Exact) : Exact × Flags :=
  match x with
  | .nan s => (.nan s, 0)
  | .inf neg => (.fin neg 0 1, 0)
  | .fin neg n d => if n = 0 then (.inf neg, flagDZ) else (.fin neg d n, 0)

/-- √(n/d) as an exact value. -/
def sqrtNum (n d : Nat) : Exact :=
  -- scaled so that the root keeps `rp` bits below a result of at least 2^-160
  let m := n * d
  let r := isqrt m
  if r * r = m then .fin false r d
  else
    let q := isqrt (m * 2 ^ (2 * rp))
    .fin false (2 * q + 1) (d * 2 ^ (rp + 1))

/-- 1/√x (R338). -/
def rsqrtNum (x : Exact) : Exact × Flags :=
  match x with
  | .nan s => (.nan s, 0)
  | .inf neg => if neg then (.nan true, 0) else (.fin false 0 1, 0)
  | .fin neg n d =>
    if n = 0 then (.inf neg, flagDZ) else if neg then (.nan true, 0) else (sqrtNum d n, 0)

/-- arctangent series for 0 ≤ t < 1/2: Σ (−1)^i t^(2i+1)/(2i+1). -/
def atanGo (t2 : Nat) : Nat → Nat → Nat → Bool → Int → Int
  | 0, _, _, _, acc => acc
  | k + 1, t, i, minus, acc =>
    atanGo t2 k (t * t2 / 2 ^ wp) (i + 2) (!minus) (if minus then acc - (t / i : Nat) else acc + (t / i : Nat))
/-- t/(1+√(1+t²)): the tangent of half the angle. -/
def halfTan (t : Nat) : Nat := t * 2 ^ wp / (2 ^ wp + isqrt (2 ^ (2 * wp) + t * t))
/-- atan t for 0 ≤ t ≤ 1, fixed point. -/
def atanFix (t : Nat) : Nat :=
  let h := halfTan (halfTan t)
  4 * (atanGo (h * h / 2 ^ wp) 80 h 1 false 0).toNat
def piFix : Nat := 4 * atanFix (2 ^ wp)

/-- The nearest code to atan2(y, x) for integers not both zero (R229): octants are exact, no other ratio of integers
is a tie. -/
def atan2Code (y x : Int) : Nat :=
  let ay := y.natAbs
  let ax := x.natAbs
  let swap := decide (ay > ax)
  let t := if swap then ax * 2 ^ wp / ay else ay * 2 ^ wp / ax
  -- angle within the octant, in 1/2^64 of a code unit
  let c := if ax = ay then 4096 * 2 ^ 64 else if t = 0 && (ay = 0 || ax = 0) then 0
    else atanFix t * 16384 * 2 ^ 64 / piFix
  let q1 := if swap then 8192 * 2 ^ 64 - c else c
  let q2 := if x < 0 then 16384 * 2 ^ 64 - q1 else q1
  let full := if y < 0 then 32768 * 2 ^ 64 - q2 else q2
  (full + 2 ^ 63) / 2 ^ 64 % 32768

/-- cos series at θ (fixed point, θ ≤ π/4): Σ (−1)^i θ^(2i)/(2i)!. -/
def cosGo (th2 : Nat) : Nat → Nat → Nat → Bool → Int → Int
  | 0, _, _, _, acc => acc
  | k + 1, t, i, minus, acc =>
    cosGo th2 k (t * th2 / 2 ^ wp / (i * (i + 1))) (i + 2) (!minus) (if minus then acc - t else acc + t)
def cosFix (th : Nat) : Int := cosGo (th * th / 2 ^ wp) 40 (2 ^ wp) 1 false 0
def sinFix (th : Nat) : Int := cosGo (th * th / 2 ^ wp) 40 th 2 false 0
def rne14 (v : Int) : Int := (v * 16384 * 2 + (2 ^ wp : Nat)) / (2 ^ (wp + 1) : Nat)

/-- cos in the first eighth of the circle and its mirror, a ≤ 8192. -/
def cosQuarter (a : Nat) : Int :=
  if a ≤ 4096 then rne14 (cosFix (a * piFix / 16384)) else rne14 (sinFix ((8192 - a) * piFix / 16384))

/-- C[a] of R228. -/
def cosTable (a : Nat) : Int :=
  let a := a % 32768
  if a ≤ 8192 then cosQuarter a
  else if a ≤ 16384 then -cosQuarter (16384 - a)
  else if a ≤ 24576 then -cosQuarter (a - 16384)
  else cosQuarter (32768 - a)
/-- S[a] of R228. -/
def sinTable (a : Nat) : Int := cosTable ((a + 24576) % 32768)

end Sys2Proof.Machine
end

