-- ==== Sys2Proof/Machine/Block.lean ====
section
/-! DEFINITION. E2M1, the S16 block scale, BX blocks and the quantiser (R218 to R222), and the other element formats of
R211 as they stand in memory and in tiles. -/

namespace Sys2Proof.Machine

/-- Twice the magnitude of an E2M1 code (R218). -/
def e2m1Twice (c : Nat) : Nat :=
  match c % 8 with
  | 0 => 0 | 1 => 1 | 2 => 2 | 3 => 3 | 4 => 4 | 5 => 6 | 6 => 8 | _ => 12

/-- The E2M1 code of a magnitude n/d rounded under RM; a tie goes to the even code (R218). `up` rounds away. -/
def e2m1Mag (rm : Nat) (neg : Bool) (n d : Nat) : Nat :=
  if n > 6 * d then 7
  else
    -- the greatest code whose magnitude does not exceed n/d
    let lo := (List.range 8).foldl (fun a c => if e2m1Twice c * d ≤ 2 * n then c else a) 0
    if e2m1Twice lo * d = 2 * n || lo = 7 then lo
    else
      let two := e2m1Twice lo + e2m1Twice (lo + 1)
      match rm with
      | 0 => if two * d = 4 * n then (if lo % 2 = 0 then lo else lo + 1) else if two * d < 4 * n then lo + 1 else lo
      | 1 => lo
      | 2 => if neg then lo else lo + 1
      | _ => if neg then lo + 1 else lo

/-- The E2M1 code of a value; a result of magnitude 0 is code 0, whatever the sign (R218). -/
def e2m1Code (rm : Nat) (neg : Bool) (n d : Nat) : Nat :=
  let m := e2m1Mag rm neg n d
  if m = 0 then 0 else (if neg then 8 else 0) + m

/-- What an S16 code stands for (R219). -/
inductive Scale where
  | zero | inf | nan
  | fin (n d : Nat)
  deriving DecidableEq, Repr

def decodeS16 (c : Nat) : Scale :=
  let e := c / 256 % 256
  let m := c % 256
  if e = 0 then .zero
  else if e = 255 then (if m = 0 then .inf else .nan)
  else if e ≥ 135 then .fin ((256 + m) * 2 ^ (e - 135)) 1 else .fin (256 + m) (2 ^ (135 - e))

/-- Sup(n/d): the least S16 value not below it, for n > 0 (R219). -/
def supS16 (n d : Nat) : Nat :=
  let e := ilog2 n d
  if e < -126 then 0x0100
  else if e > 127 then 0xFEFF
  else
    let num := if e ≥ 0 then n * 256 else n * 256 * 2 ^ (-e).toNat
    let den := if e ≥ 0 then d * 2 ^ e.toNat else d
    let m := (num + den - 1) / den - 256
    let code := (e + 127).toNat * 256 + m
    if code > 0xFEFF then 0xFEFF else code

/-- BX4 and BX8 (R220). -/
inductive Bx where
  | bx4 | bx8
  deriving DecidableEq, Repr

def Bx.bytes : Bx → Nat
  | .bx4 => 24
  | .bx8 => 40
def Bx.codeBytes : Bx → Nat
  | .bx4 => 16
  | .bx8 => 32

/-- Byte i of a block held as a list of bytes. -/
def byteAt (bs : List Byte) (i : Nat) : Nat := (bs.getD i 0).toNat
/-- A little-endian number of n bytes at offset i (R2). -/
def leAt (bs : List Byte) (i : Nat) : Nat → Nat
  | 0 => 0
  | n + 1 => byteAt bs i + 256 * leAt bs (i + 1) n
/-- n bytes of a number, little-endian (R2). -/
def leBytes : Nat → Nat → List Byte
  | 0, _ => []
  | n + 1, v => BitVec.ofNat 8 v :: leBytes n (v / 256)

def Bx.code (b : Bx) (bs : List Byte) (i : Nat) : Nat :=
  match b with
  | .bx4 => byteAt bs (i / 2) / (if i % 2 = 0 then 1 else 16) % 16
  | .bx8 => byteAt bs i
def Bx.selector (b : Bx) (bs : List Byte) (i : Nat) : Bool := leAt bs b.codeBytes 4 / 2 ^ i % 2 == 1
def Bx.scale (b : Bx) (bs : List Byte) (sel : Bool) : Nat := leAt bs (b.codeBytes + 4 + if sel then 2 else 0) 2

/-- The value of an element code, without its scale. -/
def Bx.value (b : Bx) (c : Nat) : Exact :=
  match b with
  | .bx4 => .fin (c / 8 % 2 == 1) (e2m1Twice c) 2
  | .bx8 => decodeNum e4m3 false c

/-- Element i of a block decoded exactly (R221). -/
def Bx.decode (b : Bx) (bs : List Byte) (i : Nat) : Exact :=
  let c := b.code bs i
  let v := b.value c
  if v.isNaN then .nan false
  else match decodeS16 (b.scale bs (b.selector bs i)) with
    | .zero => .fin false 0 1
    | .nan => .nan false
    | .inf => .inf (match b with | .bx4 => c / 8 % 2 == 1 | .bx8 => c / 128 % 2 == 1)
    | .fin n d => if v.isZero then .fin false 0 1 else v.mul (.fin false n d)

/-- Largest magnitude and group threshold shift of the quantiser (R222). -/
def Bx.emax : Bx → Nat
  | .bx4 => 6
  | .bx8 => 448
def Bx.shift : Bx → Nat
  | .bx4 => 3
  | .bx8 => 6

/-- Q of R222: the quotient rounded once under RM, saturating; a zero quotient is code 0. -/
def Bx.quant (b : Bx) (rm : Nat) (neg : Bool) (n d : Nat) : Nat :=
  match b with
  | .bx4 => e2m1Code rm neg n d
  | .bx8 =>
    if n = 0 then 0 else (encodeNum e4m3 ⟨rm, true, false⟩ (.fin neg n d)).1

/-- The magnitude of a finite value, as a fraction. -/
def Exact.mag : Exact → Nat × Nat
  | .fin _ n d => (n, d)
  | _ => (0, 1)
def magMax (a b : Nat × Nat) : Nat × Nat := if a.1 * b.2 < b.1 * a.2 then b else a
def maxMag (xs : List Exact) : Nat × Nat := xs.foldl (fun a x => magMax a x.mag) (0, 1)

/-- Code of a finite element against a scale code (R222). -/
def Bx.quantBy (b : Bx) (rm : Nat) (s : Nat) (x : Exact) : Nat :=
  match decodeS16 s with
  | .fin n d => b.quant rm x.isNeg (x.mag.1 * d) (x.mag.2 * n)
  | _ => 0

/-- The bytes of a block from its codes, selectors and scales (R220). -/
def Bx.pack (b : Bx) (codes : List Nat) (sels : List Bool) (sa sb : Nat) : List Byte :=
  let codeBytes := match b with
    | .bx8 => codes.map (BitVec.ofNat 8)
    | .bx4 => (List.range 16).map fun i => BitVec.ofNat 8 (codes.getD (2 * i) 0 + 16 * codes.getD (2 * i + 1) 0)
  let plane := (sels.zipIdx).foldl (fun a (s, i) => if s then a + 2 ^ i else a) 0
  codeBytes ++ leBytes 4 plane ++ leBytes 2 sa ++ leBytes 2 sb

/-- The quantiser: 32 exact values to one block (R222). -/
def Bx.quantise (b : Bx) (rm : Nat) (xs : List Exact) : List Byte :=
  let isInf (x : Exact) : Bool := match x with
    | .inf _ => true
    | _ => false
  if xs.any Exact.isNaN then b.pack (xs.map fun _ => 0) (xs.map fun _ => false) 0xFFFF 0xFFFF
  else if xs.any isInf then
    let f := maxMag xs
    let sb := if f.1 > 0 then supS16 f.1 (f.2 * b.emax) else 0
    let code (x : Exact) : Nat := match x, b with
      | .inf n, .bx4 => if n then 15 else 7
      | .inf n, .bx8 => if n then 0xFE else 0x7E
      | x, _ => if sb = 0 then 0 else b.quantBy rm sb x
    b.pack (xs.map code) (xs.map fun x => !isInf x) 0xFF00 sb
  else
    let am := maxMag xs
    if am.1 = 0 then List.replicate b.bytes 0
    else
      let sa := supS16 am.1 (am.2 * b.emax)
      let inB (x : Exact) : Bool := decide (x.mag.1 * am.2 * 2 ^ b.shift < am.1 * x.mag.2)
      let fb := maxMag (xs.filter inB)
      let sb := if fb.1 > 0 then supS16 fb.1 (fb.2 * b.emax) else sa
      b.pack (xs.map fun x => b.quantBy rm (if inB x then sb else sa) x) (xs.map inB) sa sb

/-- Element formats by their codes (R211). -/
inductive Elem where
  | fp (f : Fmt)
  | int (w : Nat)
  | ph16
  | bx (b : Bx)
  | none
  deriving DecidableEq, Repr

def elemOf (code : Nat) : Elem :=
  match code with
  | 0 => .fp fp32 | 1 => .fp bf16 | 2 => .fp e4m3 | 3 => .fp e5m2 | 4 => .int 32 | 5 => .int 8 | 6 => .ph16
  | 8 => .bx .bx4 | 9 => .bx .bx8 | _ => .none

/-- Bits of an element of a tile format (R211). -/
def Elem.width : Elem → Nat
  | .fp f => f.width
  | .int w => w
  | .ph16 => 32
  | _ => 32

/-- Elements per 32-bit lane (R211). -/
def Elem.perLane (e : Elem) : Nat := 32 / e.width

/-- The exact value of an element's code. -/
def Elem.decode (e : Elem) (fz : Bool) (c : Nat) : Exact :=
  match e with
  | .fp f => decodeNum f fz c
  | .int w => .ofInt (toSigned w c)
  | .ph16 => if c % 2 = 1 then .fin false (c / 2 % 32768) 32768 else .nan false
  | _ => .fin false 0 1

/-- One conversion of an exact value to a tile or memory format of one element (R215, R217). -/
def Elem.encode (e : Elem) (r : Rnd) (x : Exact) : Nat × Flags :=
  match e with
  | .fp f => encodeNum f r x
  | .int w => toIntFmt w r x
  | _ => (0, 0)

/-- A value in turns as PH16 (R229, `ph.cvt`; R328): a = RNE(x · 32768) mod 32768 with D set; NaN and ±∞ undefined. -/
def turnsToPh16 (x : Exact) : Nat :=
  match x with
  | .fin neg n d =>
    let (q, _) := roundInt 0 neg (n * 32768) d 0
    (Exact.sgn neg q % 32768).toNat * 2 + 1
  | _ => 0

end Sys2Proof.Machine
end

