-- ==== Sys2Proof/Config.lean ====
section
/-! DEFINITION. What an implementation fixes and what the manual leaves open: constants without a body, so that no
proof can see what they are. Fuse and firmware values are R5's; free values are applied to the counter `State.fresh`
or to the operands they depend on. -/

namespace Sys2Proof.Config

/-- PKG_ID.STEPPING, from 0x01 on (R13). -/
opaque steppingRaw : Nat
def stepping : BitVec 8 := BitVec.ofNat 8 (1 + steppingRaw % 255)
/-- PKG_SPARE: spare slices of a die at reset, 0 to 16 (R16); read through `spareSlices`. -/
opaque spareSlicesRaw : Nat → Nat
/-- PKG_SPARE: spare cores of a die at reset, 0 to 4 (R16); read through `spareCores`. -/
opaque spareCoresRaw : Nat → Nat
/-- UAL_STATE.SPARES_LEFT at reset, 0 to 9 (R36). -/
opaque spareLanesRaw : Nat
/-- Cores of a die fenced at reset for want of a spare (R19, R20). -/
opaque fencedAtReset : List Nat
def spareSlices (d : Nat) : Nat := spareSlicesRaw d % 17
def spareCores (d : Nat) : Nat := spareCoresRaw d % 5
def spareLanes : Nat := spareLanesRaw % 10
/-- The logical cores of a die that the fuses bind to spares at manufacture (R10); read through `fusedRemap`. -/
opaque fusedRemapRaw : Nat → List Nat
/-- The fused remap table of a die: package cores with their physical cores, 99 downwards; no more than the spares that
PKG_SPARE does not count as left (R10, R16). -/
def fusedRemap (d : Nat) : List (Nat × Nat) :=
  ((((fusedRemapRaw d).map fun c => 96 * d + c % 96).eraseDups.take (4 - spareCores d)).zipIdx).map fun e => (e.1, 99 - e.2)

/-- Die-pair transit, fused between 140 and 200 cycles (R28, R29). -/
opaque xlatRaw : Nat → Nat → Nat
/-- Remote direct load, fused between 760 and 900 ticks (R28, R29). -/
opaque rloadRaw : Nat → Nat → Nat
/-- DIE_XLAT_i.TOj: zero on the diagonal, symmetric, within R29's bounds. -/
def xlat (i j : Nat) : Nat := if i = j then 0 else 140 + xlatRaw (min i j) (max i j) % 61
/-- DIE_RLOAD_i.TOj: 600 on the diagonal, within R29's bounds elsewhere. -/
def rload (i j : Nat) : Nat := if i = j then 600 else 760 + rloadRaw i j % 141

/-- FEAT_OFFER_LO[5:0] (R57). -/
opaque featOffer : BitVec 6
/-- The fused minimum SVN at manufacture (R61, R63). -/
opaque svnMin : BitVec 8
/-- Revoke bits of the four key slots (R61). -/
opaque keyRevoked : BitVec 4
/-- The SHA-384 digest of the public key of a slot (R61). -/
opaque keyDigest : Nat → List Byte
/-- SHA-384, by the standard R60 names. -/
opaque sha384 : List Byte → List Byte
/-- ECDSA verification over brainpoolP384r1 with SHA-384: message, key, r, s (R60). -/
opaque ecdsaVerify : List Byte → List Byte → List Byte → List Byte → Bool
/-- The image set in the device's own store that stage 0x05 verifies (R25); empty when the image is missing. -/
opaque bootImage : List Byte
/-- Whether the image set of a header holds a microcode routine of index 6 to 63 (R364). -/
opaque microcodeLoaded : List Byte → Nat → Bool
/-- What a loaded routine of an image set does (R364), by its header, its index, mp0 to mp7, imm16 and f: the number of the
fault of R351 it meets, with its address, if any; and where its results land, each at its fixed offset in ticks: offset, AB
(even) or CB (odd), address, number of bytes. -/
opaque routineFault : List Byte → Nat → List (BitVec 64) → BitVec 16 → BitVec 32 → Option (Nat × Nat)
opaque routineResults : List Byte → Nat → List (BitVec 64) → BitVec 16 → BitVec 32 → List (Nat × Nat × Nat × Nat)
/-- The bytes of a result of a loaded routine, from the free counter: they depend on the buffers it reads (R364). -/
opaque routineByte : Nat → Byte
/-- Whether the policy component of an image set is Veryore's standard one; another states its own behaviour (R125). Before
a set runs there is no header and no pass. -/
opaque standardPolicyRaw : List Byte → Bool
def standardPolicy (header : List Byte) : Bool := header.isEmpty || standardPolicyRaw header
/-- The system law that an image set, by its header, places in slot 0 or 1 (R76, R100): words and parameters. -/
opaque systemLaw : List Byte → Nat → List W32 × List W32
/-- A crew of the system that the policy places at a pass, from the free counter (R401): the address of its image, its
argument, the clusters it may use, as a mask, and the address of its completion record or 0. -/
opaque systemCrew : Nat → Option (Word × Word × Nat × Word)
/-- What a boot stage that ends found, from the free counter and the stage (R25, R26): its error, and the die states. -/
opaque bootOutcome : Nat → Nat → BitVec 8 × BitVec 8
/-- Bytes of an SPDM response: function, message code, arguments (R65, R66). -/
opaque spdmBytes : Nat → Nat → List Nat → List Byte
/-- Whether a FINISH message authenticates its session (R65). -/
opaque spdmFinishOk : Nat → Nat → Bool

/-- VF_TABLE_d.Pi in steps (R99). -/
opaque vfPoint : Nat → Nat → BitVec 8
/-- ENV_LIMITS.ICC_MAX (R99). -/
opaque iccMax : BitVec 16
/-- The fused thermal coupling map W[cluster][point], as a numerator over 2^16 (R98). -/
opaque coupling : Nat → Nat → Nat
/-- The last conversion of a sensor before the snapshot of frame n: class, index (R74, R87). -/
opaque sensor : Nat → Nat → Nat → BitVec 32
/-- Whether that sensor has failed its self-check (R75). -/
opaque sensorFailed : Nat → Nat → Nat → Bool
/-- Power estimate of a cluster over frame n, in units of 1/65,536 W (R87 class 6, R101). -/
def clusterPower (n c : Nat) : Nat := (sensor n 6 c).toNat % 2 ^ 31

/-- Which edge of four a droop suppresses (R97), modulo four. -/
opaque droopPhase : Nat

/-- The fused stack hash: die, 512-byte region number → slice and set (R151); read through `hashSlice` and `hashSet`. -/
opaque hash : Nat → Nat → Nat
def hashSlice (d region : Nat) : Nat := hash d region % 384
def hashSet (d region : Nat) : Nat := hash d region / 384 % 1024
/-- The spatial-locality predictor: log2 of the block's granules, from the free counter (R151). -/
opaque predict : Nat → Nat
/-- The replacement choice among candidate ways, from the free counter (R151, R153). -/
opaque victim : Nat → Nat
/-- A free value for a bit pattern the spec leaves open, one for each count of `State.fresh`. -/
opaque freeWord : Nat → Word
/-- The byte a wide access that races leaves, and the like: one for each count of `State.fresh`. -/
opaque freeByte : Nat → Byte
/-- A choice of a policy image that departs from the standard one (R125), from the free counter. -/
opaque policy : Nat → Nat

/-- Cycles until something whose time the spec leaves open happens, one for each count of the free counter. -/
opaque delay : Nat → Nat

end Sys2Proof.Config
end

