-- ==== Sys2Proof/Machine/Sparse.lean ====
section
/-! DEFINITION. Sparse maps as plain data: pairs of a key and a value, keys strictly rising, no entry equal to what an
unlisted key reads as. Memory (`Host.Cell`) and every large table of the device are held in this one form. -/

namespace Sys2Proof.Machine

/-- A sparse map from natural numbers. -/
abbrev Map (α : Type) := List (Nat × α)

/-- The value at a key; `d` is what an unlisted key reads as. -/
def Map.get {α : Type} (d : α) : Map α → Nat → α
  | [], _ => d
  | (k, v) :: m, a => if a = k then v else Map.get d m a

/-- Insertion of an entry, kept in rising order. -/
def Map.put {α : Type} : Map α → Nat → α → Map α
  | [], a, x => [(a, x)]
  | (k, v) :: m, a, x => if a = k then (a, x) :: m else if a < k then (a, x) :: (k, v) :: m else (k, v) :: Map.put m a x

/-- Removal of an entry. -/
def Map.del {α : Type} : Map α → Nat → Map α
  | [], _ => []
  | (k, v) :: m, a => if a = k then Map.del m a else (k, v) :: Map.del m a

/-- Writing the value an unlisted key reads as removes the entry. -/
def Map.set {α : Type} [DecidableEq α] (d : α) (m : Map α) (a : Nat) (x : α) : Map α :=
  if x = d then m.del a else m.put a x

/-- Every key of the map is above `lo`, keys rise strictly, and no value is the default. -/
def Map.wfFrom {α : Type} [DecidableEq α] (d : α) : Option Nat → Map α → Bool
  | _, [] => true
  | lo, (k, v) :: m =>
    (match lo with | none => true | some l => decide (l < k)) && decide (v ≠ d) && Map.wfFrom d (some k) m

/-- The canonical form. -/
def Map.wf {α : Type} [DecidableEq α] (d : α) (m : Map α) : Bool := Map.wfFrom d none m

/-- Entries whose key satisfies a test are dropped. -/
def Map.drop {α : Type} (p : Nat → Bool) (m : Map α) : Map α := m.filter fun e => !p e.1

end Sys2Proof.Machine
end

