-- ==== Sys2Proof/Syntax.lean ====
section
/-! DEFINITION. The steps of the device as syntax: one constructor per row of spec/opcode_table.json. An op of the
slots a and b (R277), or v and w (R279), is one row and carries its slot. The other rows are events of the package,
each whole (95_what_each_step_holds.md); they carry what comes from outside the machine. -/

namespace Sys2Proof

/-- Slots 1 (a) and 2 (b) share opcodes 1 to 41 (R277). -/
inductive ABSlot where
  | a | b
  deriving DecidableEq, Repr

/-- Slots 3 (v) and 4 (w) share opcodes 1 to 33 (R279). -/
inductive VWSlot where
  | v | w
  deriving DecidableEq, Repr

/-- The T-format extension word (R273): aux, override mask and immediate indices. -/
structure TExt where
  aux : BitVec 11
  ov  : BitVec 3
  ib  : BitVec 6
  ia  : BitVec 6
  id  : BitVec 6
  deriving DecidableEq, Repr

/-- A configuration request of the host to a function (R26, R43, R54). -/
inductive CfgReq where
  /-- enumeration and any other read or write that changes no state of the model -/
  | other
  /-- SR-IOV: enable the first `n` virtual functions, 0 to 32 -/
  | vfEnable (n : Nat)
  /-- the PRI capability: enable, and the Outstanding Page Request Allocation -/
  | pri (enable : Bool) (alloc : Nat)
  /-- the link as trained: SPEED, WIDTH and FLIT of HOST_LINK (R45) -/
  | link (speed : Nat) (width : Nat) (flit : Bool)
  deriving DecidableEq, Repr

/-- An ATS completion (R51, R54): a translation of `2^lg` bytes at `base` with permissions, or Unsupported Request. -/
inductive AtsResult where
  | translated (base : Nat) (lg : Nat) (r w : Bool)
  | unsupported
  deriving DecidableEq, Repr

/-- A request of the host to a window of a function: a read of n bytes, or a write of bytes with their byte enables
(R47). -/
inductive MemReq where
  | read (n : Nat)
  | write (bytes : List (Option Byte))
  deriving DecidableEq, Repr

/-- The function that a request of the host addresses, and whether it came over that function's bound stream (R68). -/
structure Via where
  fn    : Nat
  bound : Bool
  deriving DecidableEq, Repr

/-- A read of `size` bytes of HOST_DISCARD, from byte `off` of it (R70). -/
structure DiscardRead where
  via  : Via
  off  : Nat
  size : Nat
  deriving DecidableEq, Repr

/-- What the other packages bring to a collective (R33, R38): their partial results as they came, in order of package index,
this package's own place filled with anything; and rank 0's fields FN, ETYPE and COUNT on package index 0, which stand in for
it when that is another package. -/
structure Others where
  fn    : Nat
  etype : Nat
  count : Nat
  bufs  : List (List Byte)
  deriving DecidableEq, Repr

/-- A request of a peer package (R33). -/
inductive PeerReq where
  | read (addr n : Nat)
  | write (addr : Nat) (bytes : List Byte)
  | atomic (fn : Nat) (addr n : Nat) (v : Word)
  | other
  deriving DecidableEq, Repr

inductive Instr where
  /- control, c slot (R276) -/
  | br (g : Guard) (off : BitVec 22)
  | call (g : Guard) (off : BitVec 22)
  | jmp (g : Guard) (j : SReg) (imm : BitVec 10)
  | ret (g : Guard)
  | loop (g : Guard) (lv : BitVec 3) (cr : SReg) (len : BitVec 13)
  | loopp (g : Guard) (lv : BitVec 3) (cr : SReg) (len : BitVec 13) (stages : BitVec 4)
  | brstage (g : Guard) (off : BitVec 22)
  | wait (g : Guard) (j : SReg) (ph : BitVec 1)
  | tba (g : Guard) (tag : BitVec 3)
  | tbw (g : Guard) (tag : BitVec 3)
  | yield (g : Guard)
  | fmt (g : Guard) (j : SReg)
  | fmtImm (g : Guard) (val : W32)
  | fmtr (g : Guard) (d : SReg)
  | rsys (g : Guard) (d : SReg) (num : BitVec 10)
  | wsys (g : Guard) (j : SReg) (num : BitVec 10)
  | trap (g : Guard) (code : BitVec 8)
  | tret (g : Guard)
  | retire (g : Guard)
  | qent (g : Guard) (d : SReg)
  | realign (g : Guard) (d j : SReg) (imm : BitVec 10)
  | tick (g : Guard) (d : SReg)
  | time (g : Guard) (d : SReg)
  | hint (g : Guard) (j : SReg) (n : BitVec 3)
  | evt (g : Guard) (d : SReg)
  | inject (g : Guard) (j : SReg) (kind : BitVec 10)
  /- scalar, a and b slots (R277) -/
  | add (sl : ABSlot) (g : Guard) (d j k : SReg)
  | sub (sl : ABSlot) (g : Guard) (d j k : SReg)
  | mul (sl : ABSlot) (g : Guard) (d j k : SReg)
  | mulh (sl : ABSlot) (g : Guard) (d j k : SReg)
  | mulhu (sl : ABSlot) (g : Guard) (d j k : SReg)
  | div (sl : ABSlot) (g : Guard) (d j k : SReg)
  | divu (sl : ABSlot) (g : Guard) (d j k : SReg)
  | rem (sl : ABSlot) (g : Guard) (d j k : SReg)
  | remu (sl : ABSlot) (g : Guard) (d j k : SReg)
  | and (sl : ABSlot) (g : Guard) (d j k : SReg)
  | or (sl : ABSlot) (g : Guard) (d j k : SReg)
  | xor (sl : ABSlot) (g : Guard) (d j k : SReg)
  | andn (sl : ABSlot) (g : Guard) (d j k : SReg)
  | shl (sl : ABSlot) (g : Guard) (d j k : SReg)
  | shr (sl : ABSlot) (g : Guard) (d j k : SReg)
  | sar (sl : ABSlot) (g : Guard) (d j k : SReg)
  | min (sl : ABSlot) (g : Guard) (d j k : SReg)
  | max (sl : ABSlot) (g : Guard) (d j k : SReg)
  | minu (sl : ABSlot) (g : Guard) (d j k : SReg)
  | maxu (sl : ABSlot) (g : Guard) (d j k : SReg)
  | clz (sl : ABSlot) (g : Guard) (d j : SReg)
  | popc (sl : ABSlot) (g : Guard) (d j : SReg)
  | ext (sl : ABSlot) (g : Guard) (d j k : SReg) (sgn : BitVec 1)
  | lea (sl : ABSlot) (g : Guard) (d j k : SReg) (sh : BitVec 4)
  | sel (sl : ABSlot) (g : Guard) (d j k : SReg) (pn : BitVec 4)
  | addi (sl : ABSlot) (g : Guard) (d j : SReg) (imm : BitVec 10) (x : Option W32)
  | andi (sl : ABSlot) (g : Guard) (d j : SReg) (imm : BitVec 10) (x : Option W32)
  | ori (sl : ABSlot) (g : Guard) (d j : SReg) (imm : BitVec 10) (x : Option W32)
  | shli (sl : ABSlot) (g : Guard) (d j : SReg) (n : BitVec 6)
  | shri (sl : ABSlot) (g : Guard) (d j : SReg) (n : BitVec 6)
  | sari (sl : ABSlot) (g : Guard) (d j : SReg) (n : BitVec 6)
  | movi (sl : ABSlot) (g : Guard) (d : SReg) (imm : BitVec 10) (x : Option W32)
  | movhi (sl : ABSlot) (g : Guard) (d j : SReg) (imm : BitVec 10) (x : Option W32)
  | cmp (sl : ABSlot) (g : Guard) (pd : BitVec 4) (j k : SReg) (cond : BitVec 4)
  | cmpi (sl : ABSlot) (g : Guard) (pd : BitVec 4) (j : SReg) (imm : BitVec 6) (cond : BitVec 4) (x : Option W32)
  | pset (sl : ABSlot) (g : Guard) (pd pj pk : BitVec 4) (tt : BitVec 4)
  | fadd (sl : ABSlot) (g : Guard) (d j k : SReg)
  | fmul (sl : ABSlot) (g : Guard) (d j k : SReg)
  | ffma (sl : ABSlot) (g : Guard) (d j k : SReg)
  | fcvt (sl : ABSlot) (g : Guard) (d j : SReg) (kind : BitVec 4)
  | fcmp (sl : ABSlot) (g : Guard) (pd : BitVec 4) (j k : SReg) (cond : BitVec 4)
  | ld (g : Guard) (d j : SReg) (width : BitVec 2) (sgn : BitVec 1) (pol : BitVec 2) (ord : BitVec 2) (scope : BitVec 3) (x : Option W32)
  | st (g : Guard) (d j : SReg) (width : BitVec 2) (pol : BitVec 2) (ord : BitVec 2) (scope : BitVec 3) (x : Option W32)
  | amo (g : Guard) (d j k : SReg) (fn : BitVec 4) (width : BitVec 2) (pol : BitVec 2) (ord : BitVec 2) (scope : BitVec 3)
  | cas (g : Guard) (d j k : SReg) (width : BitVec 2) (pol : BitVec 2) (ord : BitVec 2) (scope : BitVec 3)
  /- tile, v and w slots (R279) -/
  | vadd (sl : VWSlot) (g : Guard) (d a b : TileOp) (bs : BitVec 1) (x : Option TExt)
  | vsub (sl : VWSlot) (g : Guard) (d a b : TileOp) (bs : BitVec 1) (x : Option TExt)
  | vmul (sl : VWSlot) (g : Guard) (d a b : TileOp) (bs : BitVec 1) (x : Option TExt)
  | vfma (sl : VWSlot) (g : Guard) (d a b : TileOp) (bs : BitVec 1) (x : Option TExt)
  | vmax (sl : VWSlot) (g : Guard) (d a b : TileOp) (bs : BitVec 1) (x : Option TExt)
  | vmin (sl : VWSlot) (g : Guard) (d a b : TileOp) (bs : BitVec 1) (x : Option TExt)
  | vabs (sl : VWSlot) (g : Guard) (d a : TileOp) (x : Option TExt)
  | vneg (sl : VWSlot) (g : Guard) (d a : TileOp) (x : Option TExt)
  | vand (sl : VWSlot) (g : Guard) (d a b : TileOp) (bs : BitVec 1) (x : Option TExt)
  | vor (sl : VWSlot) (g : Guard) (d a b : TileOp) (bs : BitVec 1) (x : Option TExt)
  | vxor (sl : VWSlot) (g : Guard) (d a b : TileOp) (bs : BitVec 1) (x : Option TExt)
  | vshl (sl : VWSlot) (g : Guard) (d a b : TileOp) (bs : BitVec 1) (x : Option TExt)
  | vshr (sl : VWSlot) (g : Guard) (d a b : TileOp) (bs : BitVec 1) (x : Option TExt)
  | vsar (sl : VWSlot) (g : Guard) (d a b : TileOp) (bs : BitVec 1) (x : Option TExt)
  | vcmp (sl : VWSlot) (g : Guard) (d a b : TileOp) (bs : BitVec 1) (x : TExt)
  | vsel (sl : VWSlot) (g : Guard) (d a b : TileOp) (bs : BitVec 1) (x : Option TExt)
  | vmov (sl : VWSlot) (g : Guard) (d a : TileOp) (x : Option TExt)
  | vcvt (sl : VWSlot) (g : Guard) (d a : TileOp) (x : TExt)
  | vbcy (sl : VWSlot) (g : Guard) (d a : TileOp) (x : TExt)
  | vbcx (sl : VWSlot) (g : Guard) (d a : TileOp) (x : TExt)
  | vrolx (sl : VWSlot) (g : Guard) (d a : TileOp) (x : TExt)
  | vroly (sl : VWSlot) (g : Guard) (d a : TileOp) (x : TExt)
  | vsumx (sl : VWSlot) (g : Guard) (d a : TileOp) (x : Option TExt)
  | vsumy (sl : VWSlot) (g : Guard) (d a : TileOp) (x : Option TExt)
  | vmaxx (sl : VWSlot) (g : Guard) (d a : TileOp) (x : Option TExt)
  | vmaxy (sl : VWSlot) (g : Guard) (d a : TileOp) (x : Option TExt)
  | vargx (sl : VWSlot) (g : Guard) (d a : TileOp) (x : Option TExt)
  | vscanx (sl : VWSlot) (g : Guard) (d a : TileOp) (x : Option TExt)
  | vld (sl : VWSlot) (g : Guard) (t : TileOp) (j : SReg) (off : BitVec 7) (x : Option W32)
  | vldT (sl : VWSlot) (g : Guard) (t : TileOp) (j : SReg) (off : BitVec 7) (tag : BitVec 16)
  | vst (sl : VWSlot) (g : Guard) (t : TileOp) (j : SReg) (off : BitVec 7) (x : Option W32)
  | vqst (sl : VWSlot) (g : Guard) (t : TileOp) (j : SReg) (off : BitVec 7) (x : Option W32)
  | vdql (sl : VWSlot) (g : Guard) (t : TileOp) (j : SReg) (off : BitVec 7) (x : Option W32)
  | vdqlT (sl : VWSlot) (g : Guard) (t : TileOp) (j : SReg) (off : BitVec 7) (tag : BitVec 16)
  | viota (sl : VWSlot) (g : Guard) (d : TileOp) (x : Option TExt)
  | vexp2 (g : Guard) (d a : TileOp) (x : Option TExt)
  | vlog2 (g : Guard) (d a : TileOp) (x : Option TExt)
  | vrcp (g : Guard) (d a : TileOp) (x : Option TExt)
  | vrsqrt (g : Guard) (d a : TileOp) (x : Option TExt)
  | vperm (g : Guard) (d a b : TileOp) (x : Option TExt)
  | phMul (g : Guard) (d a b : TileOp) (bs : BitVec 1) (x : Option TExt)
  | phDiv (g : Guard) (d a b : TileOp) (bs : BitVec 1) (x : Option TExt)
  | phPow (g : Guard) (d a b : TileOp) (bs : BitVec 1) (x : Option TExt)
  | phCmp (g : Guard) (d a b : TileOp) (bs : BitVec 1) (x : Option TExt)
  | phSumx (g : Guard) (d a : TileOp) (x : Option TExt)
  | phSumy (g : Guard) (d a : TileOp) (x : Option TExt)
  | phRot (g : Guard) (d a b : TileOp) (x : Option TExt)
  | phFrom (g : Guard) (d a : TileOp) (x : Option TExt)
  | phCvt (g : Guard) (d a : TileOp) (x : Option TExt)
  | phCos (g : Guard) (d a : TileOp) (x : Option TExt)
  | phSin (g : Guard) (d a : TileOp) (x : Option TExt)
  /- transposer, x slot (R280) -/
  | xblk (g : Guard) (d a : TileOp) (w : BitVec 2)
  | xzip (g : Guard) (d a : TileOp) (w : BitVec 2)
  | xunzip (g : Guard) (d a : TileOp) (w : BitVec 2)
  | xcol (g : Guard) (d a : TileOp) (w : BitVec 2)
  /- matrix, m slot (R281, R352) -/
  | mcall (g : Guard) (routine : BitVec 6) (imm : BitVec 16)
  | wld (g : Guard) (imm : BitVec 16)
  | mma (g : Guard) (imm : BitVec 16)
  | rot (g : Guard) (imm : BitVec 16)
  | drn (g : Guard) (imm : BitVec 16)
  | smo (g : Guard) (imm : BitVec 16)
  | zro (g : Guard) (imm : BitVec 16)
  | mpset (g : Guard) (n : BitVec 3) (j : SReg)
  | mpget (g : Guard) (n : BitVec 3) (d : SReg)
  | msnap (g : Guard) (t : TileOp) (d : SReg) (h : BitVec 9)
  /- engine, e slot (R282) -/
  | bld (g : Guard) (j k : SReg)
  | bst (g : Guard) (j k : SReg)
  | bmc (g : Guard) (j k : SReg)
  | larm (g : Guard) (j k : SReg)
  | larmImm (g : Guard) (j : SReg) (n : W32)
  | fence (g : Guard) (ord : BitVec 2) (scope : BitVec 3)
  | drain (g : Guard) (scope : BitVec 3)
  | fsig (g : Guard) (die : BitVec 2) (j k : SReg)
  | mig (g : Guard) (j k : SReg) (n : BitVec 10) (deadline : W32)
  | wbr (g : Guard) (j k : SReg)
  | invr (g : Guard) (j k : SReg)
  | coll (g : Guard) (fn : BitVec 4) (j k : SReg)
  | tok (g : Guard) (j k : SReg)
  | pref (g : Guard) (lvl : BitVec 2) (j k : SReg)
  | acct (g : Guard) (d : SReg)
  /- Binnacle words (R84, R85) -/
  | sen (d : BitVec 4) (id : BitVec 19)
  | hnt (d : BitVec 4) (sel : BitVec 19)
  | prm (d : BitVec 4) (n : BitVec 4)
  | ldi (d : BitVec 4) (imm : BitVec 19)
  | ldh (d s : BitVec 4) (imm : BitVec 19)
  | binAdd (d s t : BitVec 4)
  | binSub (d s t : BitVec 4)
  | binMul (d s t : BitVec 4)
  | mli (d s : BitVec 4) (imm : BitVec 19)
  | binShr (d s : BitVec 4) (n : BitVec 5)
  | binMin (d s t : BitVec 4)
  | binMax (d s t : BitVec 4)
  | clp (d s t : BitVec 4)
  | binAbs (d s : BitVec 4)
  | cgt (s t : BitVec 4)
  | csel (d s t : BitVec 4)
  | ask (s : BitVec 4) (id : BitVec 19)
  | sig (s : BitVec 4) (sel : BitVec 19)
  | bend
  /- package: resets, boot, repair (01_package.md) -/
  | coldReset
  | warmReset
  | bootStageComplete (error : BitVec 8) (dies : BitVec 8)
  | spareCoreRemap (core : Nat)
  | sliceCopyDone (die slice : Nat)
  | dieRetirement (v : Word)
  | dieRetirementDone (die : Nat)
  /- host registers and translation (03_host.md) -/
  | invalidationCompletion (tag : Nat)
  | featCommit (v : Word)
  | fwGo (v : Word)
  | fwRaiseMin (v : Word)
  | fwVerifyDone
  /- the scale-up fabric (R33 to R35) -/
  | portRetrainDone (port : Nat) (ok : Bool)
  /- the Binnacle's loader and frame (04_binnacle.md) -/
  | lawLoad (fn : Nat) (v : Word)
  | lawUnload (fn : Nat) (v : Word)
  | lawParamCommit (fn : Nat) (v : Word)
  | frameSnapshot
  | lawSlot (slot : Nat)
  | composition
  | applyFrame
  | dieDroop (die : Nat)
  | droopClear (die : Nat)
  | sliceGroupPowerDown (die group : Nat)
  | sliceGroupReady (die group : Nat)
  /- partitions and the Pilot (05_partitions.md, 06_pilot.md) -/
  | partWrite (p off : Nat) (v : Word)
  | partitionReset (p : Nat)
  | acctAdd (t : Nat) (v : Word)
  | schedPass
  | gateWaitExpiry (p : Nat)
  | planWrite (n off : Nat) (v : Word)
  | mayflyPost (crew seq : Nat) (token : W32)
  | sliceEnd (p : Nat)
  | drainDeadlineExpiry (p : Nat)
  | crewSaveDone (crew : Nat)
  | switchClearingDone (p : Nat)
  | scarabSwapDone (p : Nat)
  /- memory tiers (07_memory_tiers.md) -/
  | frameFetchDone (frame : Nat) (ok : Bool)
  | frameEvictDone (frame : Nat)
  | frameScrubDone (frame : Nat)
  | fmapAssign (v : Word)
  | fmapRelease (v : Word)
  | fmapSwmOn (v : Word)
  | fmapSwmOff (v : Word)
  | fmapPeek (v : Word)
  | fmapCommandDone
  | stackWaysWrite (t : Nat) (v : Word)
  | wayMaskApplied (t : Nat)
  | stackSplitWrite (p die : Nat) (v : Word)
  | stackWayclr (die : Nat) (v : Word)
  /- cores and contexts (08_cores.md): `cx` is 4·core + context -/
  | parkResume (cx : Nat)
  | resultLand (cx : Nat)
  | freezeEnd (core : Nat)
  | loadDataReturn (cx id : Nat)
  | drainComplete (cx : Nat)
  | turnLimitExpiry (cx : Nat)
  | unblock (cx : Nat)
  | watchdogExpiry (cx : Nat)
  | asyncEventEntry (cx : Nat)
  | barrierRelease (crew : Nat)
  | realignResume (cx : Nat)
  | landingArrival (core id : Nat)
  | engineCommandComplete (core id : Nat)
  | postedStorePerform (id : Nat)
  | fsigToken (core id : Nat)
  | collResult (coll : Nat) (peers : Others)
  | memberRetireComplete (cx : Nat)
  | crewEnd (crew : Nat)
  | shadowBankReady (cx : Nat)
  /- what only the outside starts: the host, peers, failures (01_package.md to 03_host.md), and an illegal encoding -/
  | peerRequest (req : PeerReq)
  | configRequest (fn : Nat) (req : CfgReq)
  | thermalTrip (die : Nat)
  | coreFailure (core : Nat)
  | registerWrite (fn : Via) (off size : Nat) (v : Word)
  | seqRangeWrite (n : Nat) (v : Word)
  | tenantMapWrite (t : Nat) (v : Word)
  | vfMemoryRequest (vf bar off size : Nat) (wr : Option (List (Option Byte))) (bound : Bool)
  | atsCompletion (id : Nat) (res : AtsResult)
  | prgResponse (id : Nat) (success : Bool)
  | atsInvalidation (fn : Nat) (pasid : Option Nat) (base len tag : Nat)
  | getVersion (fn : Nat)
  | getCapabilities (fn : Nat)
  | negotiateAlgorithms (fn : Nat) (offered : Bool)
  | getDigests (fn : Nat)
  | getCertificate (fn slot off len : Nat)
  | challenge (fn slot : Nat) (nonce : Nat)
  | getMeasurements (fn index : Nat)
  | keyExchange (fn : Nat) (nonce : Nat)
  | finish (fn : Nat) (mac : Nat)
  | heartbeat (fn : Nat)
  | keyUpdate (fn : Nat)
  | endSession (fn : Nat)
  | ideKm (fn stream : Nat) (key : Nat)
  | lockInterface (vf : Nat)
  | startInterface (vf : Nat)
  | stopInterface (vf : Nat)
  | tdispError (vf : Nat)
  | hostRecordWrite (fn : Via) (bar off : Nat) (bytes : List (Option Byte))
  | hostDiscardRead (fn : DiscardRead)
  | laneErrorThreshold (port : Nat)
  | illegalEncoding (slot sub : BitVec 8)
  deriving DecidableEq, Repr

end Sys2Proof
end

