-- ==== Sys2Proof/Machine/State.lean ====
section
/-! DEFINITION. The state of the device as plain data, and the state right after a cold reset. INVENTORY.md lists every
piece with its rule and its reset value. -/

namespace Sys2Proof.Machine

/-- Reasons a step stops the machine. None is raised by a step of this model: every exception the spec describes is a
next state. The one constructor is kept for `Host.Core`. -/
inductive Fault where
  /-- Raised by no meaning; safe. -/
  | unreachable
  deriving DecidableEq, Repr

/-- Reasons a step has no meaning. -/
inductive Refusal where
  /-- An instruction without a meaning yet, by its mnemonic; raised by `exec` only; safe. -/
  | notModelled (mnemonic : String)
  deriving DecidableEq, Repr

/-- The states of a context (R179). -/
inductive Mode where
  | idle | ready | holding | blocked | parked
  deriving DecidableEq, Repr

/-- A hardware loop level (R287): addresses of the first and the end group. -/
structure Level where
  start  : Word
  stop   : Word
  piped  : Bool
  /-- a body longer than 64 groups (R196) -/
  long   : Bool
  active : Bool
  deriving DecidableEq, Repr
def Level.off : Level := ⟨0, 0, false, false, false⟩

/-- Units with an occupancy (R195, R362). -/
inductive Fu where
  | none | alu0 | alu1 | divA | divB | transposer | array | decompressor | converter | cbPort
  deriving DecidableEq, Repr

/-- A decoded weight block, held as its image's bytes (R350, R354): formats, value and mask bytes, SMO's vector, the
tick from which it is ready, and the address of its first bad mask. -/
structure Bank where
  mb      : Nat
  sp      : Nat
  img     : List Byte
  scale   : Option (List W32)
  ready   : Nat
  bad     : Option Nat
  deriving DecidableEq, Repr
/-- At member start: every weight +0, logical K as for MB = 2 dense (R350). -/
def Bank.start : Bank := ⟨2, 0, [], none, 0, none⟩

/-- A b-slot access as it stands after its checks: where its bytes lie and at what level it performs (R236). -/
structure Access where
  /-- physical key of the first byte in `State.mem` -/
  loc    : Nat
  n      : Nat
  /-- frame number, when it lies in the frame aperture -/
  frame  : Option Nat
  /-- 0 core cache, 1 home stack, 2 own stack (SWM), 3 home HBM, 4 scratch, 5 host, 6 AB, 7 peer, 8 a hint word -/
  level  : Nat
  /-- die at which it performs; 4 for the host -/
  die    : Nat
  deriving DecidableEq, Repr

/-- What happens at a tick of a context: a write that becomes readable, or a unit's read on the way (R194, R357). -/
inductive Act where
  | sreg (r : Nat) (v : Word)
  | pred (p : Nat) (b : Bool)
  | window (b : BitVec 8)
  /-- p15 ← p14; … ; p9 ← p8; p8 ← b (R288) -/
  | rotate (b : Bool)
  | lanes (vs : List (Nat × W32))
  | mp (n : Nat) (v : Word)
  | lc (n : Nat) (v : Word)
  | ec (v : Word)
  | fmt (v : W32)
  | flags (fl : Flags)
  | sys (n : Nat) (v : Word)
  | ab (a : Nat) (bs : List Byte)
  /-- `larm` of n units at AB address a (R250) -/
  | larm (a n : Nat)
  /-- the read of a tenant's balance for `acct`, whose value lands later (R382): register, and ticks from the read on -/
  | acct (d gap : Nat)
  /-- the place of a load or atomic that is held back (R245): the value its register takes once it has performed -/
  | load (id d : Nat)
  | cb (a : Nat) (bs : List Byte)
  | mmaDone
  /-- the data of a load must have come by its landing tick, else the core freezes (R197, R198); and the cycle by which its
  nominal latency has passed if no tick does -/
  | arrive (id till : Nat)
  /-- a poisoned load raises 0x0A at its landing (R395) -/
  | poison (addr : Word) (slot : Nat) (sub : Nat)
  /-- a load or atomic whose frame is no longer its owner's raises this fault at its landing (R163) -/
  | denied (addr : Word) (slot : Nat)
  /-- MMA: A row m enters (R357): A address, bytes, MA, CB row address, FRESH, bank -/
  | mmaFetch (mma : Nat) (a : Nat) (bytes : Nat) (ma : Nat) (cbRow : Nat) (fresh : Bool) (bank : Bool)
  /-- MMA: the accumulators of the row are read and the sum is formed -/
  | mmaAcc (mma : Nat) (row : List Byte) (ma : Nat) (cbRow : Nat) (fresh : Bool) (bank : Bool)
  /-- ROT: a CB row is read (R359) -/
  | rotRow (cbRow : Nat) (n : Nat)
  /-- DRN: a CB row is read (R360): CB row, AB address, scale, DF, f -/
  | drnRow (cbRow : Nat) (a : Nat) (sigma : W32) (df : Nat) (f : W32)
  deriving DecidableEq, Repr

/-- A pending action: the tick from which it is readable, its issue order, and the unit it occupies (R202). -/
structure Pend where
  land : Nat
  seq  : Nat
  fu   : Fu
  act  : Act
  deriving DecidableEq, Repr

/-- The snapshot of a handler entry: pending actions with their offsets, and the tick they are relative to (R201). -/
structure Snap where
  next  : Nat
  pend  : List Pend
  deriving DecidableEq, Repr

/-- What a blocked group waits for (R180). -/
inductive BlockOn where
  | queue
  | landing (a : Nat) (phase : Bool)
  | barrier (tag : Nat)
  /-- `retire`: commands and posted stores (R299) -/
  | retiring
  /-- a unit suspended by another context (R202) -/
  | unit (fu : Fu)
  deriving DecidableEq, Repr

/-- What an access asks of a translation (R51, R54): to read, to write, or both, as an atomic does. -/
inductive Perm where
  | r | w | rw
  deriving DecidableEq, Repr
def Perm.ok (p : Perm) (rd wr : Bool) : Bool :=
  match p with
  | .r => rd
  | .w => wr
  | .rw => rd && wr

/-- What a parked context waits for (R199). -/
inductive ParkOn where
  /-- an ATS translation of the 4 KiB page with a permission -/
  | page (p : Nat) (perm : Perm)
  | frame (f : Nat)
  deriving DecidableEq, Repr

/-- Why a holder drains and leaves the width (R182). -/
inductive Leave where
  | block (b : BlockOn)
  | turn
  | retire
  /-- a `realign` wait until a reference cycle, with its destination (R30) -/
  | realign (target d : Nat)
  deriving DecidableEq, Repr

/-- A partly issued group to be resumed (R200, R286): its first address, the address after it, and what its committed
bundles latched: a transfer, a `yield`, `retire` or `realign` that acts at its end, what a `drain` waits for (ids, with the
stage each must reach), and a `tret`. -/
structure Rest where
  group    : Word
  next     : Word
  transfer : Option Word
  leave    : Option Leave
  drain    : List (Nat × Nat)
  tret     : Bool
  deriving DecidableEq, Repr

/-- A latched fault: KIND, SUB, FADDR, SLOT (R204, R368). -/
structure Trap where
  kind  : Nat
  sub   : Nat
  faddr : Word
  deriving DecidableEq, Repr

/-- An MMA of the context in flight, with its rows as they stood before it (R366). -/
structure MmaRun where
  id   : Nat
  cb   : Nat
  rows : Nat
  last : Nat
  bank : Bool
  enter : Nat
  old  : Map (List Byte)
  deriving DecidableEq, Repr

/-- A `realign` wait (R30): target, destination, and that it runs. -/
structure Realign where
  target : Nat
  d      : Nat
  deriving DecidableEq, Repr

/-- One hardware context: R185's registers, R186's system registers, R350's matrix state, and what is in flight. -/
structure Ctx where
  mode    : Mode
  /-- order in which contexts became READY (R181) -/
  since   : Nat
  /-- ticks issued since another context became READY (R181) -/
  yielded : Nat
  sregs   : Map Word
  preds   : BitVec 16
  k0      : Word
  k1      : Word
  v       : Map W32
  mp      : Map Word
  lc      : Map Word
  ec      : Word
  f       : W32
  pc      : Word
  tick    : Nat
  flags   : Flags
  m11     : Bool
  inh     : Bool
  sys     : Bool
  cause   : Word
  epc     : Word
  faddr   : Word
  trapvec : Word
  wdog    : W32
  slip    : Nat
  winAb   : Word
  winWb   : Word
  winCb   : Word
  loops   : Map Level
  pend    : List Pend
  snap    : Option Snap
  rest    : Option Rest
  /-- the rest and the `realign` wait of what a handler interrupted (R207, R286) -/
  hRest   : Option Rest
  hRealign : Option Realign
  idle    : Nat
  leaving : Option Leave
  blockOn : Option BlockOn
  parkOn  : Option ParkOn
  wcount  : Nat
  pendFault : Option Trap
  engErr  : Option Trap
  ev10    : Bool
  ev11    : Bool
  realign : Option Realign
  busy    : Map Nat
  abClaim : Map Nat
  cbClaim : Map Nat
  rdy     : Map Nat
  /-- stores to AB that have landed while one of a lower slot of their group has yet to land: order, address, bytes (R239) -/
  abTop   : List (Nat × Nat × Nat)
  bank0   : Bank
  bank1   : Bank
  /-- which bank is active: bank1 when set -/
  active  : Bool
  mmaDone : Nat
  mmas    : List MmaRun
  fsigSeq : Map Nat
  /-- collectives issued by GROUP (R379) -/
  collSeq : Map Nat
  /-- ids of accesses and commands that a later load, and a later store, must wait for, each with the stage it must reach
  (R245, R246, R253, R315, R377) -/
  loadHold  : List (Nat × Nat)
  storeHold : List (Nat × Nat)
  /-- ids of stores of other contexts of the core whose bytes this context has read before they performed (R241, R244) -/
  seen      : List Nat
  /-- event 0x10 has been taken: the context stands at its boundary until it is saved (R116, R209) -/
  halted    : Bool
  /-- the tag and the phase in which the context last arrived (R40) -/
  arrived : Option (Nat × Nat)
  /-- a waiting `tret`: at or after this tick it completes (R207) -/
  treturn : Option Nat
  crew    : Option Nat
  member  : Nat
  stepEntry : Word
  deriving DecidableEq, Repr

def Ctx.start : Ctx where
  mode := .idle
  since := 0
  yielded := 0
  sregs := []
  preds := 1
  k0 := 0
  k1 := 0
  v := []
  mp := []
  lc := []
  ec := 0
  f := 0
  pc := 0
  tick := 0
  flags := 0
  m11 := false
  inh := false
  sys := false
  cause := 0
  epc := 0
  faddr := 0
  trapvec := 0
  wdog := 0x01000000
  slip := 0
  winAb := 0
  winWb := 0
  winCb := 0
  loops := []
  pend := []
  snap := none
  rest := none
  hRest := none
  hRealign := none
  idle := 0
  leaving := none
  blockOn := none
  parkOn := none
  wcount := 0
  pendFault := none
  engErr := none
  ev10 := false
  ev11 := false
  realign := none
  busy := []
  abClaim := []
  cbClaim := []
  rdy := []
  abTop := []
  bank0 := .start
  bank1 := .start
  active := false
  mmaDone := 0
  mmas := []
  fsigSeq := []
  collSeq := []
  loadHold := []
  storeHold := []
  seen := []
  halted := false
  arrived := none
  treturn := none
  crew := none
  member := 0
  stepEntry := 0

/-- Who a translation cache belongs to (R51). -/
inductive Requester where
  | core (c : Nat)
  | bulk (c : Nat)
  /-- Scarab, for frames homed on a die -/
  | scarab (d : Nat)
  | pilot
  deriving DecidableEq, Repr

/-- A translation-cache entry (R51). -/
structure AtcEntry where
  owner : Requester
  fn    : Nat
  pasid : Option Nat
  base  : Nat
  lg    : Nat
  tbase : Nat
  r     : Bool
  w     : Bool
  /-- a completion without the permission asked for, kept for the access that faults on it (R54) -/
  final : Bool
  deriving DecidableEq, Repr

/-- An outstanding ATS Translation Request (R52, R54): `paging` while a Page Request is out for it. -/
structure AtsReq where
  id     : Nat
  owner  : Requester
  fn     : Nat
  pasid  : Option Nat
  page   : Nat
  perm   : Perm
  stale  : Bool
  paging : Bool
  /-- waits for a request slot (R52) -/
  queued : Bool
  /-- shares the request of an earlier miss (R52) -/
  shares : Bool
  deriving DecidableEq, Repr

/-- An ATS invalidation being processed (R56): the uses it waits for, each with the stage at which it has performed. -/
structure Inval where
  tag   : Nat
  fn    : Nat
  uses  : List (Nat × Nat)
  deriving DecidableEq, Repr

/-- What the device sends to the host, in order (R50, R59, R72, R143). -/
inductive Out where
  | ats (fn : Nat) (pasid : Option Nat) (page : Nat)
  | pageRequest (fn : Nat) (pasid : Option Nat) (page : Nat)
  | invalidated (fn tag : Nat)
  | record (fn : Nat) (addr : Nat) (bytes : List Byte)
  | token (fn : Nat) (addr : Nat) (v : W32)
  | msix (fn vector : Nat)
  | trip (die : Nat)
  | spdm (fn code : Nat) (bytes : List Byte)
  | spdmError (fn code : Nat)
  | tdisp (fn code : Nat)
  /-- answer to a configuration request: 0 successful, 1 Request Retry Status -/
  | config (fn status : Nat)
  /-- answer to a memory request: 0 successful, 1 Unsupported Request, 2 Completer Abort -/
  | completion (fn status : Nat) (bytes : List Byte)
  /-- a read of length zero after host stores, which tells that they are visible (R246) -/
  | zeroRead (fn : Nat) (pasid : Option Nat)
  /-- a request to a peer package, on the port of R34: package, address, bytes, and whether it writes -/
  | peerAsk (port pkg addr n : Nat) (write : Bool)
  /-- answer to a peer package's request: 0 data, 1 unsupported -/
  | peer (status : Nat) (v : List Byte)
  deriving DecidableEq, Repr
/-- The function on whose behalf a request goes out (R50); none for an answer and for what is no function's. -/
def Out.requester : Out → Option Nat
  | .ats fn .. | .pageRequest fn .. | .record fn .. | .token fn .. | .msix fn .. | .zeroRead fn .. => some fn
  | _ => none

/-- Progress of an SPDM responder on one function (R65). -/
structure Spdm where
  stage    : Nat
  session  : Bool
  pending  : Bool
  keys     : Nat
  deriving DecidableEq, Repr
def Spdm.start : Spdm := ⟨0, false, false, 0⟩

/-- A law in its slot (R76 to R78). -/
structure Law where
  code   : List W32
  params : List W32
  tenant : Option Nat
  q      : Map W32
  flag   : Bool
  cycles : Nat
  deriving DecidableEq, Repr

/-- An action of the law loader that takes effect at a frame start (R82): accepted of a function, or, as `drop`, the
unload of the law of a tenant that one of R83's events befell, with the partition the tenant had then. -/
inductive LawAct where
  | load (fn slot : Nat) (law : Law)
  | unload (fn slot : Nat)
  | drop (slot part : Nat)
  | params (fn slot : Nat) (ps : List W32)
  deriving DecidableEq, Repr

/-- A request of a law this frame (R90), with the tenant of its law and its partition, none for a system law. -/
structure Ask where
  slot : Nat
  tenant : Option Nat
  part : Option Nat
  kind : Nat
  idx  : Nat
  val  : Int
  deriving DecidableEq, Repr

/-- The power plane (04_binnacle.md). -/
structure Bin where
  laws     : Map Law
  acts     : List LawAct
  /-- the law that runs and the index of its next word -/
  run      : Option (Nat × Nat)
  /-- the frame of the snapshot, and the hint words it latched -/
  frame    : Nat
  snapHint : Map W32
  /-- tenant holding each partition's slice at the snapshot, plus one -/
  snapHold : Map Nat
  /-- clusters of each partition at the frame's start, by which rights are judged (R83, R86) -/
  snapCl   : Map Nat
  /-- the cycle of the last snapshot, none before the frame loop starts (R25) -/
  snapped  : Option Nat
  asks     : List Ask
  sigs     : Map (BitVec 8)
  lawFault : List Nat
  /-- results of composition, applied at cycle 2368: rail targets, clocks, gates, ENV_CAP -/
  railTgt  : Map Nat
  railMax  : Map Int
  /-- who stands at the maximum of a rail: tenants of requests, none for a request of the system (R101) -/
  railWho  : Map (List (Option Nat))
  /-- RAIL_DFLT as composition took it, the value of its default entries (R93, R101) -/
  railDflt : Nat
  clkNext  : Map Nat
  gateNext : Map Nat
  capNext  : Map Nat
  clamped  : List Nat
  /-- actual rail voltages in mV, cluster clocks in steps, ENV_CAP, and gates, clusters then slice groups from 96: 0 on,
  1 off, 2 forced off, 3 and 4 on with such a request standing (R95) -/
  rail     : Map Nat
  clk      : Map Nat
  gate     : Map Nat
  envCap   : Map Nat
  droop    : List Nat
  drooped  : List Nat
  hints    : Map W32
  events   : Map (BitVec 16)
  deriving DecidableEq, Repr

/-- A stack granule's stored marks (R170, R303): flipped data bits (0, 1, 2), a flipped tag bit, poison. -/
structure Mark where
  data   : Nat
  tag    : Bool
  poison : Bool
  deriving DecidableEq, Repr
def Mark.clean : Mark := ⟨0, false, false⟩

/-- A cached granule of a stack (R150, R152). -/
structure Gran where
  owner : Nat
  frame : Nat
  idx   : Nat
  /-- first granule and size of its block -/
  blk   : Nat
  blkN  : Nat
  bytes : List Byte
  dirty : BitVec 64
  mark  : Mark
  deriving DecidableEq, Repr

/-- Frame states (R162). -/
inductive FState where
  | absent | resident | inFlight | scrub | retired
  deriving DecidableEq, Repr

/-- A frame-map entry (R162); `out` tells an eviction in flight from a fetch. -/
structure Frame where
  state   : FState
  owned   : Bool
  owner   : Nat
  dirty   : Bool
  recd    : Bool
  cur     : Bool
  swm     : Bool
  kind    : Nat
  hbm     : Nat
  backing : Word
  out     : Bool
  deriving DecidableEq, Repr
def Frame.start : Frame := ⟨.absent, false, 0, false, false, false, false, 0, 0, 0, false⟩

/-- A frame that a `mig` has come to and still counts (R168). -/
structure MigWait where
  core  : Nat
  cmd   : Nat
  cx    : Nat
  frame : Nat
  lobj  : Nat
  deadline : Nat
  deriving DecidableEq, Repr

/-- What a `mig` that has frames to come to knows of frames since its issue (R168): those that stood RESIDENT or RETIRED then,
and those that have become so since, with whether they were late. -/
structure MigSeen where
  cmd   : Nat
  cx    : Nat
  deadline : Nat
  there : List Nat
  since : List (Nat × Bool)
  deriving DecidableEq, Repr

/-- Scarab and the stacks (07_memory_tiers.md). -/
structure Tier where
  frames  : Map Frame
  /-- HBM frames in use -/
  used    : Map Bool
  stack   : Map Gran
  /-- data marks of HBM granules and of scratch granules, by granule -/
  hbmMark : Map Mark
  scrMark : Map Mark
  /-- flipped bits, 1 or 2, of a stack set's presence and dirty-way vectors, by (384·die + slice)·1024 + set (R170) -/
  vecMark : Map Nat
  fetch   : List Nat
  /-- the tenant, plus one, whom a fetch that waits will be charged to (R393) -/
  asker   : Map Nat
  evict   : List Nat
  scrub   : List Nat
  /-- valid scratch granules, by their offset in the stack aperture over 64 (R156, R158) -/
  scrHeld : Map Bool
  /-- partitions whose memory swap is under way, with the frames it still fetches (R167) -/
  swap    : Map (List Nat)
  migs    : List MigWait
  migSeen : List MigSeen
  /-- the FMAP command that waits: its FMAP_CMD value, and FMAP_ARG as it stood then (R162) -/
  cmd     : Option (Word × Word)
  /-- STACK_WAYS writes that wait, in order -/
  ways    : List (Nat × Word)
  /-- slice groups that are off, and that are waking, by 24·die + group -/
  off     : List Nat
  waking  : List Nat
  /-- way-disable masks by 384·die + slice, and slices being copied to a spare -/
  disable : Map Nat
  copying : List Nat
  deriving DecidableEq, Repr

/-- What an engine-queue entry does (R367). -/
inductive Cmd where
  | bulk (op : Nat) (esize : Nat) (dkind pol cmask tag lobj dbase : Nat) (dims : List (Nat × Int)) (x : Nat)
  | fsig (die seq tokenAt lobj : Nat)
  | mig (entries : List Word) (lobj deadline : Nat)
  | range (inv : Bool) (base len : Nat)
  | coll (fn src dst count etype scope p p0 group lobj seq : Nat)
  | tok (seq : Nat) (token : W32)
  | pref (lvl base len : Nat)
  deriving DecidableEq, Repr

/-- A charge whose tier is not known in full: the farthest tier found so far, the units charged already, and the rates of the
four tiers as the command was enqueued (R120). -/
structure Owing where
  tier  : Nat
  paid  : Nat
  rates : List Nat
  deriving DecidableEq, Repr

/-- An engine-queue entry: progress in elements, pages or entries, what it waits for, that an error stopped it, that it
has started, the tick and the cycle it was issued on, bytes read that await the rest of their granule, the time at which an
`fsig`'s token was formed, what is owing while its charge awaits the translations that decide its tier (R120), the cycle
before which the bytes read have not come from their die, and the error met behind them (R31). -/
structure Entry where
  id      : Nat
  cx      : Nat
  crew    : Nat
  cmd     : Cmd
  done    : Nat
  needs   : List (Nat × Nat)
  stopped : Bool
  started : Bool
  tick    : Nat
  since   : Nat
  carry   : List Byte
  formed  : Option Nat
  owing   : Option Owing
  landAt  : Nat
  behind  : Option Trap
  deriving DecidableEq, Repr

/-- Why a core is frozen (R197). -/
inductive Freeze where
  /-- a late load or held load of a context, by its id -/
  | late (cx id : Nat)
  | slice (die slice : Nat)
  | scrub (frame : Nat)
  /-- accesses that wait: ids of stores or commands, and the stage each must reach (R245, R246) -/
  | drain (cx : Nat) (ids : List (Nat × Nat))
  deriving DecidableEq, Repr

/-- What a load or atomic does where it performs (R313, R316, R317): a load's sign extension; a function of R316 and its
operand; the value compared and the one written. -/
inductive MemOp where
  | load (sgn : Bool)
  | amo (fn v : Nat)
  | cas (cmp new : Nat)
  deriving DecidableEq, Repr

/-- A load or atomic that is held back until what it must follow has performed (R245): its access, its destination, its
order and scope, and what it waits for. -/
structure Held where
  id    : Nat
  cx    : Nat
  acc   : Access
  pol   : Nat
  n     : Nat
  op    : MemOp
  addr  : Word
  slot  : Nat
  d     : Nat
  acq   : Bool
  rel   : Bool
  scope : Nat
  tick  : Nat
  needs : List (Nat × Nat)
  /-- what an atomic must follow besides before it writes -/
  writes : List (Nat × Nat)
  /-- cycle before which it has not reached another die (R31) -/
  start  : Nat
  deriving DecidableEq, Repr

/-- A core: engine queue, freeze causes, AB bay tags and core cache (R190, R192, R197). -/
structure Core where
  queue   : List Entry
  freeze  : List Freeze
  bays    : Map Nat
  cache   : Map (List Byte)
  lastCx  : Nat
  /-- loads whose data the outside has not returned yet, by id (R198) -/
  pending : List Nat
  /-- loads and atomics that have not performed -/
  held    : List Held
  /-- by granule, stores that came before one that has performed there, and have not performed themselves (R244) -/
  marks   : Map (List Nat)
  deriving DecidableEq, Repr
def Core.start : Core := ⟨[], [], [], [], 3, [], [], []⟩

/-- A posted store (R32, R243): `mask` has a bit for each of its bytes that is stored. -/
structure Posted where
  id    : Nat
  cx    : Nat
  /-- the tenant whose store it is, none for the system -/
  owner : Option Nat
  /-- device address of the first byte -/
  addr  : Word
  acc   : Access
  pol   : Nat
  bytes : List Byte
  mask  : Nat
  /-- ids that must have reached a stage before it performs (R244, R245) -/
  needs : List (Nat × Nat)
  /-- 0 issued, 1 entered the collective die; a host store: 2 left the package, 3 a zero-length read is on its way (R246) -/
  stage : Nat
  /-- a wait asks for its visibility in the system (R246) -/
  sys   : Bool
  /-- units of the landing object that its performance counts (R250) -/
  units : Nat
  /-- an engine command's store, by its core and entry -/
  entry : Option (Nat × Nat)
  /-- a hint write: partition and word (R301) -/
  hint  : Option (Nat × Nat)
  /-- the kind of an `inject`, which stores no byte and leaves a mark (R303) -/
  inject : Option Nat
  tick  : Nat
  deriving DecidableEq, Repr

/-- States of a crew under pre-emption (R116). -/
inductive CrewMode where
  | running | draining | saving | saved
  deriving DecidableEq, Repr

/-- A placed crew (R146, R176): members as contexts in order of s1. -/
structure Crew where
  tenant   : Option Nat
  part     : Option Nat
  /-- launch record index of the tenant, or none -/
  launch   : Option Nat
  /-- plan and kernel, or none -/
  plan     : Option (Nat × Nat)
  prio     : Nat
  restart  : Bool
  c        : Nat
  d        : Nat
  members  : List Nat
  retired  : List Nat
  image    : Word
  /-- length of the text; a copy per die stands in `State.mem`, and an address of text is a byte offset in it (R110, R388) -/
  textLen  : Nat
  /-- why the crew ends, once it does: reason and package core, 0xFFFF for none (R143, R178) -/
  ending   : Option (Nat × Nat)
  mode     : CrewMode
  tag      : Option Nat
  /-- barrier phase: number, members arrived, release cycle once all have arrived (R40) -/
  phase    : Nat
  arrivals : List Nat
  release  : Option Nat
  /-- what the members' accesses before their `tba` still wait for, by the barrier's phase (R253) -/
  owes     : List (Nat × Nat)
  /-- member contexts as saved, when the crew is saved (R116) -/
  savedCx  : List (Nat × Ctx)
  /-- commands still queued at the save, reissued at restore (R369) -/
  savedQ   : List Entry
  /-- members that have yet to issue after a restore at which every member had arrived (R41) -/
  resumed  : List Nat
  /-- frames of its save area, while it is saved (R118) -/
  frames   : List Nat
  /-- MISS has counted the crew at this slice end (R118) -/
  missed   : Bool
  /-- while the crew drains, when DEADLINE_US elapses, in ns (R116) -/
  drainBy  : Nat
  /-- completion record that the policy asks for a system crew (R401) -/
  done     : Word
  deriving DecidableEq, Repr

/-- A slot of a step entry as Mayfly keeps it (R133, R137). -/
structure SeqSlot where
  seq  : Nat
  out  : Nat
  took : Bool
  deriving DecidableEq, Repr

/-- A plan's step in progress (R135). -/
structure StepRun where
  /-- kernel offered and not yet placed, or running -/
  kernel : Nat
  placed : Bool
  slots  : List SeqSlot
  failed : Bool
  deriving DecidableEq, Repr

/-- A partition's slice and switch (R112, R113). -/
structure PartRun where
  /-- end of the slice in ns, once begun -/
  ends     : Option Nat
  /-- stage of a switch: 0 none, 1 pre-emption, 2 clearing, 3 memory swap and resumption -/
  stage    : Nat
  outgoing : Option Nat
  incoming : Option Nat
  /-- the outgoing tenant's hint words, from the clearing of a switch to its end (R113) -/
  words    : List W32
  deriving DecidableEq, Repr
def PartRun.start : PartRun := ⟨none, 0, none, none, []⟩

/-- A crew of the system that the policy asks for: image, argument, clusters as a mask, completion record (R401). -/
structure SysCrew where
  image : Word
  args  : Word
  mask  : Nat
  done  : Word
  deriving DecidableEq, Repr

/-- A completion record that has yet to be written (R143): its number, tenant (none for the system), address, bytes, and
whether an interrupt follows. -/
structure Rec where
  id     : Nat
  tenant : Option Nat
  addr   : Nat
  bytes  : List Byte
  notify : Bool
  deriving DecidableEq, Repr

/-- The Pilot (06_pilot.md). -/
structure Pilot where
  crews    : Map Crew
  nextCrew : Nat
  parts    : Map PartRun
  steps    : Map StepRun
  /-- pool frames allotted, by plan·2^32 + frame: the record index plus one -/
  pool     : Map Nat
  /-- first test of a waiting candidate's residency gate, by the candidate's key, in ns -/
  gates    : Map Nat
  /-- header, loop table and bind table of a waiting candidate's image, as its first attempt read them (R142) -/
  images   : Map (List Byte)
  /-- crews of the system that wait for a place (R401) -/
  sysWait  : List SysCrew
  /-- completion records that wait for a translation, or for room (R52, R143) -/
  records  : List Rec
  /-- byte remainders by 4·tenant + tier, and exhausted tenants -/
  remain   : Map Nat
  broke    : List Nat
  /-- package core that a record ended under R140 names -/
  errCore  : Map Nat
  deriving DecidableEq, Repr

/-- A contribution absorbed by the reduction units (R379): rank, core and queue entry, and its bytes. -/
structure Part where
  rank  : Nat
  core  : Nat
  entry : Nat
  bytes : List Byte
  deriving DecidableEq, Repr

/-- A collective in progress (R379): its crew, GROUP, which of the crew's with that GROUP it is, and contributions. -/
structure Coll where
  id    : Nat
  crew  : Nat
  group : Nat
  seq   : Nat
  parts : List Part
  deriving DecidableEq, Repr

/-- The instruction or stop that the group being issued met (model's own, see the log). -/
inductive Stop where
  | trap (t : Trap) (slot : Nat)
  | park (p : ParkOn)
  | block (b : BlockOn)
  | pilot (t : Trap) (slot : Nat)
  | freeze (f : Freeze)
  /-- the latched engine error of the context is raised (R368) -/
  | engine (slot : Nat)
  /-- the crew of the context has ended in the op -/
  | gone
  /-- a `trap` taken: its bundle commits -/
  | software (code : Nat)
  deriving DecidableEq, Repr

/-- What an act of the collective die lacks before it can be done: a translation of a page (R52), a port that is up (R34), or a
HBM frame for a frame in SCRUB (R123). -/
inductive Want where
  | page (o : Requester) (fn : Nat) (pasid : Option Nat) (page : Nat) (perm : Perm)
  | port
  | room
  deriving DecidableEq, Repr

/-- An act of the collective die that may have to wait for what it lacks: an event, tried again as soon as nothing is lacking; or
what each scheduling pass tries again: a candidate for placement by its key, a plan's boundary, a crew of the system, a
completion record. -/
inductive Task where
  | event (i : Instr)
  | item (key : Nat)
  | boundary (n : Nat)
  | system (w : SysCrew)
  | record (id : Nat)
  deriving DecidableEq, Repr
def Task.isEvent : Task → Bool
  | .event _ => true
  | _ => false

/-- An act that waits: what it lacks, and the translations that have come for it. -/
structure Wait where
  task  : Task
  wants : List Want
  got   : List AtcEntry
  deriving DecidableEq, Repr

/-- Scratch of the group that issues: its context, the address of the bundle and of the next bundle and group, the
slot, and what the bundle's ops asked for. -/
structure Issue where
  cx       : Nat
  group    : Word
  bundle   : Word
  after    : Word
  next     : Word
  slot     : Nat
  transfer : Option Word
  leave    : Option Leave
  stopped  : Option Stop
  drain    : List (Nat × Nat)
  tret     : Bool
  /-- bytes of AB that an atomic of the group has written, as they stood at the group's issue (R247, R316) -/
  abOld    : Map Byte
  deriving DecidableEq, Repr
def Issue.none : Issue := ⟨0, 0, 0, 0, 0, 0, .none, .none, .none, [], false, []⟩

/-- Whose step is next. -/
inductive Mover where
  | event (i : Instr)
  | core (c : Nat)
  | law
  | wait
  deriving DecidableEq, Repr

/-- The whole machine. -/
structure State where
  /-- reference counter G (R27) -/
  g        : Nat
  mem      : List Host.Cell
  ctxs     : Map Ctx
  cores    : Map Core
  /-- package registers by function·2^32 + offset (R13 to R173) -/
  regs     : Map Word
  die      : Map Nat
  retiring : Option (Nat × Bool)
  fenced   : List Nat
  remap    : Map Nat
  repairs  : List Nat
  tripped  : Bool
  portDown : List Nat
  laneUsed : List Nat
  retrain  : List Nat
  vfOn     : Nat
  pri      : Map Nat
  priUsed  : Map Nat
  atc      : List AtcEntry
  ats      : List AtsReq
  inval    : List Inval
  /-- acts of the collective die that wait; and, while one is tried, the translations that came for it and what it still
  lacks -/
  waits    : List Wait
  answers  : List AtcEntry
  wants    : List Want
  outbox   : List Out
  /-- header of the image set that runs or is to run; none when the boot takes the device's own (R25, R60) -/
  fwHeader : List Byte
  fwBusy   : Bool
  fwRun    : Bool
  svnMin   : BitVec 8
  spdm     : Map Spdm
  ide      : Map Nat
  tdisp    : Map Nat
  bin      : Bin
  tier     : Tier
  pilot    : Pilot
  posted   : List Posted
  colls    : List Coll
  /-- commands cancelled with a charge still owing, until their crew is gone (R120) -/
  owed     : List Entry
  nextId   : Nat
  /-- count of free values taken (model's own) -/
  fresh    : Nat
  iss      : Issue
  mover    : Mover
  todo     : List Nat
  agenda   : List (Nat × Instr)
  deriving DecidableEq, Repr

def Bin.start : Bin where
  laws := []
  acts := []
  run := none
  frame := 0
  snapHint := []
  snapHold := []
  snapCl := []
  snapped := none
  asks := []
  sigs := []
  lawFault := []
  railTgt := []
  railMax := []
  railWho := []
  railDflt := 800
  clkNext := []
  gateNext := []
  capNext := []
  clamped := []
  rail := []
  clk := []
  gate := []
  envCap := []
  droop := []
  drooped := []
  hints := []
  events := []

def Tier.start : Tier where
  frames := []
  used := []
  stack := []
  hbmMark := []
  scrMark := []
  vecMark := []
  fetch := []
  asker := []
  evict := []
  scrub := []
  scrHeld := []
  swap := []
  migs := []
  migSeen := []
  cmd := none
  ways := []
  off := []
  waking := []
  disable := []
  copying := []

def Pilot.start : Pilot where
  crews := []
  nextCrew := 0
  parts := []
  steps := []
  pool := []
  gates := []
  images := []
  sysWait := []
  records := []
  remain := []
  broke := []
  errCore := []

/-- The machine right after a cold reset (R24, R25, R27): G is 0, no stage has begun, every memory reads zero. -/
def State.reset : State where
  g := 0
  mem := []
  ctxs := []
  cores := []
  regs := []
  die := []
  retiring := none
  fenced := []
  remap := []
  repairs := []
  tripped := false
  portDown := []
  laneUsed := []
  retrain := []
  vfOn := 0
  pri := []
  priUsed := []
  atc := []
  ats := []
  inval := []
  waits := []
  answers := []
  wants := []
  outbox := []
  fwHeader := []
  fwBusy := false
  fwRun := false
  svnMin := Config.svnMin
  spdm := []
  ide := []
  tdisp := []
  bin := .start
  tier := .start
  pilot := .start
  posted := []
  colls := []
  owed := []
  nextId := 1
  fresh := 0
  iss := .none
  mover := .event .frameSnapshot
  todo := []
  agenda := []

end Sys2Proof.Machine
end

