-- ==== Sys2Proof/Machine/Ops.lean ====
section
/-! DEFINITION. The named operations over registers, memory and pending writes, and the one way an exception is taken
and returned from (R203 to R208). -/

namespace Sys2Proof.Machine

/- Contexts and cores -/
def State.ctx (s : State) (cx : Nat) : Ctx := Map.get .start s.ctxs cx
def State.setCtx (s : State) (cx : Nat) (c : Ctx) : State := { s with ctxs := Map.put s.ctxs cx c }
def State.modCtx (s : State) (cx : Nat) (f : Ctx → Ctx) : State := s.setCtx cx (f (s.ctx cx))
def State.core (s : State) (c : Nat) : Core := Map.get .start s.cores c
def State.setCore (s : State) (c : Nat) (k : Core) : State := { s with cores := Map.put s.cores c k }
def State.modCore (s : State) (c : Nat) (f : Core → Core) : State := s.setCore c (f (s.core c))
/-- The context that issues. -/
def State.cur (s : State) : Ctx := s.ctx s.iss.cx
def State.modCur (s : State) (f : Ctx → Ctx) : State := s.modCtx s.iss.cx f

/-- Package core and die of a context number 4·core + context (R9). -/
def coreOf (cx : Nat) : Nat := cx / 4
def dieOfCore (c : Nat) : Nat := c / 96
def dieOf (cx : Nat) : Nat := dieOfCore (coreOf cx)
def clusterOf (c : Nat) : Nat := c / 4
def contextsOf (c : Nat) : List Nat := [4 * c, 4 * c + 1, 4 * c + 2, 4 * c + 3]

/- The spaces of `State.mem`: every memory the device reaches, apart by their keys. -/
def hbmKey (h off : Nat) : Nat := h * 65536 + off
def hostKey (a : Nat) : Nat := 2 ^ 72 + a
def scratchKey (o : Nat) : Nat := 2 ^ 90 + o
def peerKey (pkg a : Nat) : Nat := 2 ^ 88 + pkg * 2 ^ 57 + a
/-- Typed buffers: 0 AB, 1 WB, 2 CB (R190). -/
def bufKey (core kind a : Nat) : Nat := 2 ^ 100 + core * 2 ^ 24 + kind * 2 ^ 22 + a
def abKey (core a : Nat) : Nat := bufKey core 0 a
def wbKey (core a : Nat) : Nat := bufKey core 1 a
def cbKey (core a : Nat) : Nat := bufKey core 2 a
def stagingKey (o : Nat) : Nat := 2 ^ 110 + o
def seqKey (o : Nat) : Nat := 2 ^ 111 + o
def launchKey (o : Nat) : Nat := 2 ^ 112 + o
/-- The text copy of a crew on a die, by byte offset in the text, and its group-start map (R110, R266). -/
def textKey (crew die pc : Nat) : Nat := 2 ^ 120 + (crew * 4 + die) * 2 ^ 64 + pc
def mapKey (crew die i : Nat) : Nat := 2 ^ 200 + (crew * 4 + die) * 2 ^ 64 + i

/-- What an unlisted address reads as (R25; see the log). -/
def memDefault : Byte := 0
/-- The canonical form of memory. -/
def Memory.wf (m : List Host.Cell) : Bool := Map.wf memDefault m
def Memory.read (m : List Host.Cell) (a : Nat) : Byte := Map.get memDefault m a
def Memory.write (m : List Host.Cell) (a : Nat) (b : Byte) : List Host.Cell := Map.set memDefault m a b
def Memory.writeAll : List Host.Cell → Nat → List Byte → List Host.Cell
  | m, _, [] => m
  | m, a, b :: bs => Memory.writeAll (Memory.write m a b) (a + 1) bs
/-- Zero a range by dropping its entries. -/
def Memory.zero (m : List Host.Cell) (a n : Nat) : List Host.Cell :=
  m.filter fun e => !(decide (a ≤ e.1) && decide (e.1 < a + n))

def State.byte (s : State) (a : Nat) : Byte := Memory.read s.mem a
def State.bytes (s : State) (a n : Nat) : List Byte := (List.range n).map fun i => s.byte (a + i)
/-- A little-endian number (R2). -/
def State.num (s : State) (a n : Nat) : Nat := leAt (s.bytes a n) 0 n
def State.putBytes (s : State) (a : Nat) (bs : List Byte) : State := { s with mem := Memory.writeAll s.mem a bs }
def State.putNum (s : State) (a n v : Nat) : State := s.putBytes a (leBytes n v)
def State.zeroRange (s : State) (a n : Nat) : State := { s with mem := Memory.zero s.mem a n }

/- AB as the ops of a group read it (R239, R247) -/
/-- A byte of the issuing context's AB as it stood when the group began to issue: an atomic of the group writes at once, and
the group's other reads do not see it. -/
def State.abByte (s : State) (a : Nat) : Byte :=
  match s.iss.abOld.find? (·.1 == a) with
  | some e => e.2
  | none => s.byte (abKey (s.iss.cx / 4) a)
def State.abBytes (s : State) (a n : Nat) : List Byte := (List.range n).map fun i => s.abByte (a + i)
def State.abNum (s : State) (a n : Nat) : Nat := leAt (s.abBytes a n) 0 n
/-- The bytes of an atomic in AB, with those they replace kept for the group. -/
def State.abAtomicPut (s : State) (a : Nat) (bs : List Byte) : State :=
  let old := (List.range bs.length).foldl (fun m i =>
    if m.any (·.1 == a + i) then m else Map.put m (a + i) (s.byte (abKey (s.iss.cx / 4) (a + i)))) s.iss.abOld
  { s with iss := { s.iss with abOld := old } }.putBytes (abKey (s.iss.cx / 4) a) bs

/- Free values and ids -/
def State.free (s : State) : Word × State := (Config.freeWord s.fresh, { s with fresh := s.fresh + 1 })
def State.newId (s : State) : Nat × State := (s.nextId, { s with nextId := s.nextId + 1 })

/- Registers (R185) -/
/-- s0 reads zero. -/
def Ctx.s (c : Ctx) (r : Nat) : Word := if r = 0 then 0 else Map.get 0 c.sregs r
/-- Writes to s0 are discarded. -/
def Ctx.setS (c : Ctx) (r : Nat) (v : Word) : Ctx := if r = 0 then c else { c with sregs := Map.set 0 c.sregs r v }
/-- p0 reads true. -/
def Ctx.p (c : Ctx) (p : Nat) : Bool := p = 0 || c.preds.getLsbD p
def Ctx.setP (c : Ctx) (p : Nat) (b : Bool) : Ctx :=
  if p = 0 then c
  else { c with preds := if b then c.preds ||| (1 <<< p) else c.preds &&& ~~~ (1 <<< p : BitVec 16) }
def Ctx.setWindow (c : Ctx) (b : BitVec 8) : Ctx := { c with preds := b ++ c.preds.extractLsb' 0 8 }
def Ctx.lane (c : Ctx) (i : Nat) : W32 := Map.get 0 c.v i
def Ctx.setLanes (c : Ctx) (vs : List (Nat × W32)) : Ctx :=
  { c with v := vs.foldl (fun m e => Map.set 0 m e.1 e.2) c.v }
def Ctx.mpr (c : Ctx) (n : Nat) : Word := Map.get 0 c.mp n
def Ctx.lcr (c : Ctx) (n : Nat) : Word := Map.get 0 c.lc n
def Ctx.level (c : Ctx) (n : Nat) : Level := Map.get .off c.loops n

/- Windows (R189) -/
def winBase (w : Word) : Nat := Word.bits w 19 0
def winSize (w : Word) : Nat := Word.bits w 51 32
/-- An access of n bytes at a lies in the window. -/
def inWindow (w : Word) (a n : Nat) : Bool := decide (winBase w ≤ a) && decide (a + n ≤ winBase w + winSize w)

/- Pending actions (R194, R201) -/
/-- Insertion by issue order, after every action of the same or earlier order. -/
def insertPend (p : Pend) : List Pend → List Pend
  | [] => [p]
  | q :: qs => if p.seq < q.seq then p :: q :: qs else q :: insertPend p qs
/-- The order of an op in the issue stream: its tick, then its slot. -/
def State.seq (s : State) : Nat := s.cur.tick * 8 + s.iss.slot
def State.pendAt (s : State) (land : Nat) (fu : Fu) (a : Act) : State :=
  let q := s.seq
  s.modCur fun c => { c with pend := insertPend ⟨land, q, fu, a⟩ c.pend }
/-- A write that is readable `lat` ticks after this op's issue (R194). -/
def State.after (s : State) (lat : Nat) (a : Act) : State := s.pendAt (s.cur.tick + lat) .none a
def State.writeS (s : State) (lat : Nat) (d : SReg) (v : Word) : State :=
  if d = 0 then s else s.after lat (.sreg d.toNat v)
def State.writeP (s : State) (lat : Nat) (p : BitVec 4) (b : Bool) : State :=
  if p = 0 then s else s.after lat (.pred p.toNat b)
def State.writeFlags (s : State) (lat : Nat) (fl : Flags) : State := if fl = 0 then s else s.after lat (.flags fl)

/-- The value of a scalar register and of a predicate at the issue of the current op. -/
def State.s (s : State) (r : SReg) : Word := s.cur.s r.toNat
def State.guard (s : State) (g : Guard) : Bool := s.cur.p g.toNat

/-- Rounding mode, SAT and FZ in effect (R231, R233). -/
def rndOf (f : W32) : Rnd := ⟨(f.extractLsb' 22 2).toNat, f.getLsbD 24, f.getLsbD 25⟩
def fVE (f : W32) : Nat := (f.extractLsb' 0 4).toNat
def fMA (f : W32) : Nat := (f.extractLsb' 4 4).toNat
def fMB (f : W32) : Nat := (f.extractLsb' 8 4).toNat
def fDF (f : W32) : Nat := (f.extractLsb' 12 4).toNat
def fSP (f : W32) : Nat := (f.extractLsb' 16 3).toNat
def fHD (f : W32) : Nat := (f.extractLsb' 19 2).toNat
def fSM (f : W32) : Bool := f.getLsbD 21

/-- The three outcomes of an instruction. -/
abbrev Res := Host.Outcome State Fault Refusal
/-- An op whose guard reads false performs nothing (R268). -/
def State.guarded (s : State) (g : Guard) (f : State → State) : Res := .next (if s.guard g then f s else s)
/-- The shape of most scalar ops: guard, one result, its latency (R283). -/
def State.scalar (s : State) (g : Guard) (lat : Nat) (d : SReg) (v : Word) : Res := s.guarded g (·.writeS lat d v)

/- Taking an exception (R204 to R206) -/

/-- A tick no context reaches: where claims, occupancies and ready ticks of suspended routines stand while a handler
runs (R202, R208). -/
def farTick : Nat := 2 ^ 70
def Map.shift (m : Map Nat) (above : Nat) (by' : Nat) : Map Nat :=
  m.map fun e => (e.1, if e.2 > above then e.2 + by' else e.2)
def Map.unshift (m : Map Nat) (next tr : Nat) : Map Nat :=
  m.map fun e => (e.1, if e.2 ≥ farTick then e.2 - farTick - next + tr else e.2)

/-- Port claims on ticks from `next` on are set aside, and come back at their offsets. -/
def Map.later (m : Map Nat) (next : Nat) : Map Nat := m.map fun e => (if next ≤ e.1 then e.1 + farTick else e.1, e.2)
def Map.back (m : Map Nat) (next tr : Nat) : Map Nat :=
  (m.filter fun e => decide (farTick ≤ e.1)).foldl
    (fun m e => let k := e.1 - farTick - next + tr; Map.put m k (Map.get 0 m k + e.2))
    (m.filter fun e => decide (e.1 < farTick))

/-- The ticks of a MMA in flight are set aside with its routine, and come back at their offsets (R202, R358, R366). -/
def tickAside (next n : Nat) : Nat := if next < n then n + farTick else n
def tickBack (next tr n : Nat) : Nat := if farTick ≤ n then n - farTick - next + tr else n
def MmaRun.aside (m : MmaRun) (next : Nat) : MmaRun := { m with last := tickAside next m.last, enter := tickAside next m.enter }
def MmaRun.resume (m : MmaRun) (next tr : Nat) : MmaRun :=
  { m with last := tickBack next tr m.last, enter := tickBack next tr m.enter }
/-- A fill of a bank that is suspended and resumed keeps its remaining offset (R202). -/
def Bank.aside (b : Bank) (next : Nat) : Bank := { b with ready := tickAside next b.ready }
def Bank.resume (b : Bank) (next tr : Nat) : Bank := { b with ready := tickBack next tr b.ready }

/-- Units that a suspended routine keeps (R202). -/
def suspendable (fu : Fu) : Bool :=
  match fu with
  | .array | .decompressor | .converter | .transposer | .cbPort => true
  | _ => false
def fuNum : Fu → Nat
  | .none => 0 | .alu0 => 1 | .alu1 => 2 | .divA => 3 | .divB => 4 | .transposer => 5 | .array => 6
  | .decompressor => 7 | .converter => 8 | .cbPort => 9

/-- Whether a context keeps a unit: it is suspended there with a routine in flight (R202). -/
def Ctx.keeps (c : Ctx) (fu : Fu) : Bool :=
  suspendable fu && (decide (c.tick < Map.get 0 c.busy (fuNum fu)) ||
    c.pend.any (fun p => p.fu == fu && decide (c.tick < p.land)) ||
    (match c.snap with
      | none => false
      | some sn => sn.pend.any (fun p => p.fu == fu)))
/-- Whether the snapshot holds a routine on the unit (R208). -/
def Ctx.heldBack (c : Ctx) (fu : Fu) : Bool :=
  suspendable fu && (decide (farTick ≤ Map.get 0 c.busy (fuNum fu)) ||
    (match c.snap with
      | none => false
      | some sn => sn.pend.any (fun p => p.fu == fu)))

/-- The snapshot of the context's pending actions, and its suspended routines set aside (R201, R202). -/
def Ctx.snapshot (c : Ctx) (next : Nat) : Ctx :=
  { c with
    snap := some ⟨next, c.pend⟩
    pend := []
    busy := Map.shift c.busy next farTick
    rdy := Map.shift c.rdy next farTick
    abClaim := Map.later c.abClaim next
    cbClaim := Map.later c.cbClaim next
    bank0 := c.bank0.aside next
    bank1 := c.bank1.aside next
    mmas := c.mmas.map (·.aside next) }
/-- The replay at tick `tr`: each action at `tr + Δ` (R201, R207). -/
def Ctx.replay (c : Ctx) (tr : Nat) : Ctx :=
  match c.snap with
  | none => c
  | some sn =>
    { c with
      snap := none
      pend := (sn.pend.map fun p => { p with land := p.land - sn.next + tr }).foldl (fun l p => insertPend p l) c.pend
      busy := Map.unshift c.busy sn.next tr
      rdy := Map.unshift c.rdy sn.next tr
      abClaim := Map.back c.abClaim sn.next tr
      cbClaim := Map.back c.cbClaim sn.next tr
      bank0 := c.bank0.resume sn.next tr
      bank1 := c.bank1.resume sn.next tr
      mmas := c.mmas.map (·.resume sn.next tr) }

/-- CTX_CAUSE of a fault (R188). -/
def causeWord (slot sub kind : Nat) : Word := BitVec.ofNat 64 (slot % 8 * 2 ^ 21 + sub % 256 * 2 ^ 8 + kind % 256)

/-- Whether the text word at an address begins a group, by the crew's group-start map (R266). -/
def State.groupStart (s : State) (cx : Nat) (a : Word) : Bool :=
  match (s.ctx cx).crew with
  | none => false
  | some id =>
    match s.pilot.crews.find? (·.1 == id) with
    | none => false
    | some (_, cr) =>
      let off := a.toNat
      off < cr.textLen && off % 4 == 0 &&
        (s.byte (mapKey id (dieOf cx) (off / 32))).getLsbD (off / 4 % 8)

def State.crew? (s : State) (id : Nat) : Option Crew := (s.pilot.crews.find? (·.1 == id)).map (·.2)
def State.setCrew (s : State) (id : Nat) (c : Crew) : State :=
  { s with pilot := { s.pilot with crews := Map.put s.pilot.crews id c } }
def State.delCrew (s : State) (id : Nat) : State :=
  { s with pilot := { s.pilot with crews := s.pilot.crews.filter (·.1 != id) } }

/-- A context falls idle: its member ends, its windows are released and its commands cancelled (R178, R369), though what they
still owe is paid (R120); its host stores that have left the package are told to no one any more. If it held the width, the
width falls free after it (R181). -/
def State.idleCtx (s : State) (cx : Nat) : State :=
  let c := s.ctx cx
  let s := s.setCtx cx { Ctx.start with since := c.since }
  let s := { s with
    tier := { s.tier with migs := s.tier.migs.filter (·.cx != cx), migSeen := s.tier.migSeen.filter (·.cx != cx) }
    owed := s.owed ++ (s.core (coreOf cx)).queue.filter fun (e : Entry) => e.cx == cx && e.owing.isSome
    posted := s.posted.filter fun p => !(p.cx == cx && p.entry.isNone && decide (2 ≤ p.stage)) }
  s.modCore (coreOf cx) fun k =>
    { k with
      lastCx := if c.mode = .holding then cx % 4 else k.lastCx
      held := k.held.filter (·.cx != cx)
      queue := k.queue.filter (·.cx != cx)
      freeze := k.freeze.filter fun f => match f with
        | .late x _ => x != cx
        | .drain x _ => x != cx
        | _ => true }

/-- A crew ends for a reason: its contexts fall idle at once; the Pilot's record follows with CREW_END (R178, R204). -/
def State.failCrew (s : State) (id : Nat) (reason core : Nat) : State :=
  match s.crew? id with
  | none => s
  | some cr =>
    if cr.ending.isSome then s
    else
      let s := s.setCrew id { cr with ending := some (reason, core), tag := none }
      let s := { s with colls := s.colls.filter (·.crew != id) }
      cr.members.foldl (fun s cx => if (s.ctx cx).crew = some id then s.idleCtx cx else s) s

/-- A fault delivered to the Pilot ends the crew with its code (R204, R208). -/
def State.pilotFault (s : State) (cx : Nat) (t : Trap) : State :=
  match (s.ctx cx).crew with
  | none => s
  | some id => s.failCrew id t.kind (coreOf cx)

/-- Entry to the handler (R206): the snapshot, against the tick `next` on which the resumed bundle would have issued, CAUSE, FADDR, EPC, INH, and the handler's address after three idle ticks. -/
def State.enterHandler (s : State) (cx : Nat) (t : Trap) (slot : Nat) (epc : Word) (next : Nat) (rest : Option Rest) : State :=
  s.modCtx cx fun c =>
    { c.snapshot next with
      cause := causeWord slot t.sub t.kind
      faddr := t.faddr
      epc := epc
      inh := true
      rest := none
      hRest := rest
      hRealign := c.realign
      realign := none
      pc := c.trapvec
      idle := 3
      pendFault := none
      leaving := none
      treturn := none }

/-- Delivery of a fault or event: to the handler when one is set and INH is 0, else to the Pilot (R204, R208, R266). -/
def State.deliver (s : State) (cx : Nat) (t : Trap) (slot : Nat) (epc : Word) (next : Nat) (rest : Option Rest) : State :=
  let c := s.ctx cx
  if c.trapvec = 0 || c.inh || t.kind = 0x0B then s.pilotFault cx t
  else if !s.groupStart cx c.trapvec then s.pilotFault cx ⟨0x01, 8, 0⟩
  else s.enterHandler cx t slot epc next rest

/-- `tret` (R207): INH falls and the snapshot is replayed at the tick of the resumed bundle. -/
def State.returnFrom (s : State) (cx : Nat) : State :=
  s.modCtx cx fun c => 
    { c.replay c.tick with
      inh := false
      pc := c.epc
      treturn := none
      rest := c.hRest
      hRest := none
      realign := c.hRealign
      hRealign := none }

end Sys2Proof.Machine
end

