-- ==== Sys2Proof/Machine/Regs.lean ====
section
/-! DEFINITION. The package registers of PF0 BAR0 and the virtual functions: where they lie, their reset values (R5), what
a read returns and which bits a write sets or clears (R4, R6, R47). -/

namespace Sys2Proof.Machine

/- Offsets in PF0 BAR0 -/
def rPkgLive : Nat := 0x0008
def rPkgSpare : Nat := 0x0010
def rBootStage : Nat := 0x0020
def rUalState : Nat := 0x0088
def rUalIndex : Nat := 0x0090
def rHostLink : Nat := 0x1000
def rFeatAcceptLo : Nat := 0x1020
def rFeatAcceptHi : Nat := 0x1028
def rFeatCommit : Nat := 0x1030
def rFwStatus : Nat := 0x1048
def rDiscard : Nat := 0x1050
def rSeqRange (n : Nat) : Nat := 0x1100 + 8 * n
def rTenantMap (t : Nat) : Nat := 0x1200 + 8 * t
def rBinFrame : Nat := 0x2000
def rRailDflt : Nat := 0x20A8
def rEnergy (t : Nat) : Nat := 0x2400 + 8 * t
def rPart (p off : Nat) : Nat := 0x20000 + 0x100 * p + off
def rPartClLo (p : Nat) : Nat := rPart p 0
def rPartClHi (p : Nat) : Nat := rPart p 8
def rPartCtl (p : Nat) : Nat := rPart p 0x10
def rPartStat (p : Nat) : Nat := rPart p 0x18
def rPartPre (p : Nat) : Nat := rPart p 0x20
def rSaveBase (t : Nat) : Nat := 0x26000 + 16 * t
def rSaveFrames (t : Nat) : Nat := 0x26008 + 16 * t
def rAcctBal (t : Nat) : Nat := 0x24000 + 16 * t
def rAcctRate : Nat := 0x28000
def rPilotCtl : Nat := 0x10000
def rPilotStat : Nat := 0x10008
def rMayfly : Nat := 0x10010
def rTenSched (t : Nat) : Nat := 0x11000 + 16 * t
def rTenDef (t : Nat) : Nat := 0x11008 + 16 * t
def rPlan (n off : Nat) : Nat := 0x18000 + 128 * n + off
def rFrameAper : Nat := 0x30000
def rStackAper : Nat := 0x30008
def rFmapArg : Nat := 0x30010
def rFmapStat : Nat := 0x30020
def rFmapEntry0 : Nat := 0x30028
def rFmapEntry1 : Nat := 0x30030
def rStackWays (t : Nat) : Nat := 0x30100 + 8 * t
def rStackSplit (p d : Nat) : Nat := 0x30400 + 32 * p + 8 * d
def rSlip (t : Nat) : Nat := 0x30800 + 8 * t
def rMtErr (d : Nat) : Nat := 0x30C00 + 8 * d

/-- Registers of virtual function n, and the law staging words of a function, by one key. -/
def fnKey (fn off : Nat) : Nat := fn * 2 ^ 32 + off
/-- Law staging of a function: words of LAW_CODE, LAW_PARAM, and LAW_STATUS (R79); PF0 and VF share the layout here. -/
def rLawCode (fn i : Nat) : Nat := fnKey fn (2 ^ 31 + i)
def rLawParam (fn i : Nat) : Nat := fnKey fn (2 ^ 31 + 64 + i)
def rLawStatus (fn : Nat) : Nat := fnKey fn (2 ^ 31 + 128)
def rVfDiscard (fn : Nat) : Nat := fnKey fn 0x0F00

/-- The reset values that are not zero (R5). -/
def regReset (k : Nat) : Word :=
  if k = rRailDflt then 800
  else if k = rAcctRate then 0x06060606
  else if k = rPilotCtl then BitVec.ofNat 64 (10000 * 2 ^ 32 + 2000)
  else if 0x20000 ≤ k && k < 0x22000 && k % 0x100 == 0x10 then BitVec.ofNat 64 (1000 * 2 ^ 16 + 100)
  else if 0x24000 ≤ k && k < 0x24400 && k % 16 == 0 then 0x7FFFFFFFFFFFFFFF
  else if 0x11000 ≤ k && k < 0x11400 && k % 16 == 0 then BitVec.ofNat 64 (90 * 2 ^ 32 + 100000)
  else 0

def State.reg (s : State) (k : Nat) : Word := Map.get (regReset k) s.regs k
def State.setReg (s : State) (k : Nat) (v : Word) : State := { s with regs := Map.set (regReset k) s.regs k v }
def State.regBits (s : State) (k hi lo : Nat) : Nat := Word.bits (s.reg k) hi lo
def State.setRegBits (s : State) (k hi lo v : Nat) : State := s.setReg k (Word.setBits (s.reg k) hi lo v)
def State.regBit (s : State) (k n : Nat) : Bool := (s.reg k).getLsbD n
def State.setRegBit (s : State) (k n : Nat) (b : Bool) : State := s.setRegBits k n n (if b then 1 else 0)
/-- A wrapping count in a field. -/
def State.bump (s : State) (k hi lo : Nat) (by' : Nat := 1) : State := s.setRegBits k hi lo (s.regBits k hi lo + by')

/- Named fields -/
def State.stage (s : State) : Nat := s.regBits rBootStage 7 0
def State.bootError (s : State) : Nat := s.regBits rBootStage 15 8
/-- Die states (R15): 0 OFF, 1 HOME_ONLY, 2 LIVE. -/
def State.dieState (s : State) (d : Nat) : Nat := Map.get 0 s.die d
def State.liveDies (s : State) : List Nat := (List.range 4).filter fun d => s.dieState d = 2
/-- The LIVE dies on which members are placed: a die that is being retired takes none (R22). -/
def State.placeDies (s : State) : List Nat := s.liveDies.filter fun d => (s.retiring.map (·.1)) != some d
/- When the host may access a window (R25, R26, R46) -/
def State.inService (s : State) : Bool := s.bootError == 0 && decide (8 ≤ s.stage)
/-- Offsets of PF0 BAR0 that answer: all in service, three blocks in the recovery state (R26). -/
def State.pfOpen (s : State) (off : Nat) : Bool :=
  s.inService || (s.bootError != 0 && (decide (off < 0x2000) || (decide (0x1000000 ≤ off) && decide (off < 0x2000000))))
/-- A host write to a register of PF0 BAR0, which is ignored while the device does not answer there (R26). -/
def State.served (s : State) (off : Nat) (f : State → State) : State := if s.pfOpen off then f s else s
/-- Accepted feature bits, in force once committed (R58, R59). -/
def State.feature (s : State) (n : Nat) : Bool := s.regBit rFeatCommit 0 && s.regBit rFeatAcceptLo n
def fPRI : Nat := 0
def fNOTIFY : Nat := 1
def fRETIRE : Nat := 2
def fLAWS : Nat := 3
def fPEER : Nat := 4
def fPOWER : Nat := 5

def State.tenantValid (s : State) (t : Nat) : Bool := s.regBit (rTenantMap t) 63
def State.tenantPart (s : State) (t : Nat) : Nat := s.regBits (rTenantMap t) 36 32
def State.tenantPasid (s : State) (t : Nat) : Nat := s.regBits (rTenantMap t) 19 0
/-- Function and PASID of a tenant's requests; the system's are PF0 without one (R50). -/
def State.fnPasid (s : State) (t : Option Nat) : Nat × Option Nat :=
  match t with
  | none => (0, none)
  | some t => (s.tenantPart t + 1, some (s.tenantPasid t))

/-- The clusters of a partition: bit c for package cluster c (R107). -/
def State.partClusters (s : State) (p : Nat) : Nat := (s.reg (rPartClLo p)).toNat + s.regBits (rPartClHi p) 31 0 * 2 ^ 64
def State.partHas (s : State) (p c : Nat) : Bool := s.partClusters p / 2 ^ c % 2 == 1
def State.partOfCluster (s : State) (c : Nat) : Option Nat := (List.range 32).find? fun p => s.partHas p c
def State.partEnabled (s : State) (p : Nat) : Bool := s.regBit (rPartCtl p) 32
def State.curTenant (s : State) (p : Nat) : Option Nat :=
  if s.regBit (rPartStat p) 6 then some (s.regBits (rPartStat p) 5 0) else none

/-- A partition's slice and switch. -/
def State.part (s : State) (p : Nat) : PartRun := Map.get .start s.pilot.parts p
/-- Whether a tenant holds its partition's current slice, from the end of stage 2 of its switch on (R113). -/
def State.holdsSlice (s : State) (t : Nat) : Bool :=
  let r := s.part (s.tenantPart t)
  if r.stage = 0 then s.curTenant (s.tenantPart t) == some t
  else if r.stage = 3 then r.incoming == some t
  else false
/-- Whose slice a partition's frames are kept for (R166): the outgoing tenant's until the end of stage 2 of its switch, then
the incoming one's (R113; see the log). -/
def State.sliceTenant (s : State) (p : Nat) : Option Nat :=
  if (s.part p).stage = 3 then (s.part p).incoming else s.curTenant p

/-- Global time in ns (R27). -/
def State.timeNs (s : State) : Nat := s.g * 5 / 18

/-- A cluster's clock in steps of 56.25 MHz and a rail's voltage in mV, from reset until the first apply (see the
log). -/
def State.clk (s : State) (c : Nat) : Nat := Map.get 64 s.bin.clk c
def State.railMv (s : State) (r : Nat) : Nat := Map.get 800 s.bin.rail r
def State.envCap (s : State) (c : Nat) : Nat := Map.get 64 s.bin.envCap c
def State.gate (s : State) (i : Nat) : Nat := Map.get 0 s.bin.gate i

/-- Member and tenant of a context. -/
def State.crewOf (s : State) (cx : Nat) : Option Crew := (s.ctx cx).crew.bind s.crew?
def State.tenantOf (s : State) (cx : Nat) : Option Nat := (s.crewOf cx).bind (·.tenant)
def State.partOf (s : State) (cx : Nat) : Option Nat := (s.crewOf cx).bind (·.part)

/- Accounts (R119 to R121) -/
def sat64 (v : Int) : Word :=
  let hi : Int := 2 ^ 63 - 1
  let lo : Int := -(2 ^ 63)
  BitVec.ofInt 64 (if v > hi then hi else if v < lo then lo else v)
/-- A change of a tenant's balance; a balance at or below zero exhausts the account (R121). -/
def State.addBalance (s : State) (t : Nat) (v : Int) : State :=
  let nb := sat64 ((s.reg (rAcctBal t)).toInt + v)
  let s := s.setReg (rAcctBal t) nb
  if nb.toInt ≤ 0 then
    { s with pilot := { s.pilot with broke := if s.pilot.broke.contains t then s.pilot.broke else t :: s.pilot.broke } }
  else { s with pilot := { s.pilot with broke := s.pilot.broke.filter (· != t) } }
/-- Units charged to a tenant, and to its deficit while it holds a slice (R120, R144). -/
def State.charge (s : State) (t : Nat) (units : Nat) : State :=
  if units = 0 then s
  else
    let s := s.addBalance t (-(units : Int))
    if s.curTenant (s.tenantPart t) = some t then
      s.setReg (rTenDef t) (sat64 ((s.reg (rTenDef t)).toInt - units))
    else s
/-- The rate of a tier as log2 of the bytes of a unit (R119): tiers 0 LOCAL, 1 HBM, 2 HOST, 3 PEER. -/
def State.acctRate (s : State) (tier : Nat) : Nat := s.regBits rAcctRate (8 * tier + 7) (8 * tier)
def State.acctRates (s : State) : List Nat := (List.range 4).map s.acctRate
/-- A charge of bytes at a tier under some rates, less units of it that have been charged already (R120). -/
def State.chargeRest (s : State) (t tier b paid : Nat) (rates : List Nat) : State :=
  let r := rates.getD tier 0
  let k := 4 * t + tier
  let tot := Map.get 0 s.pilot.remain k + b
  let s := { s with pilot := { s.pilot with remain := Map.set 0 s.pilot.remain k (tot % 2 ^ r) } }
  s.charge t (tot / 2 ^ r - paid)
def State.chargeBytes (s : State) (t tier b : Nat) : State := s.chargeRest t tier b 0 s.acctRates
/-- The units that bytes cost at least under some rates, whatever their tier. -/
def leastCharge (rates : List Nat) (b : Nat) : Nat := b / 2 ^ rates.foldl Nat.max 0

/-- The TDISP state of a virtual function (R68): 0 CONFIG_UNLOCKED, 1 CONFIG_LOCKED, 2 RUN, 3 ERROR; four more than its state
while a STOP_INTERFACE waits for the scrubbing to end, until which it stays in that state. -/
def State.tdispState (s : State) (vf : Nat) : Nat := Map.get 0 s.tdisp vf
/-- An interface is CONFIG_LOCKED or RUN: its partition's configuration is frozen (R68). -/
def frozenTdisp (t : Nat) : Bool := t % 4 == 1 || t % 4 == 2
def State.partFrozen (s : State) (p : Nat) : Bool := frozenTdisp (s.tdispState (p + 1))

/-- A function whose interface is in ERROR sends no request (R68). -/
def State.fnStopped (s : State) (fn : Nat) : Bool := s.tdispState fn % 4 == 3
/-- Something goes out, unless it is a request of a function that sends none. -/
def State.send (s : State) (o : Out) : State :=
  { s with outbox := s.outbox ++ if (o.requester.map s.fnStopped).getD false then [] else [o] }

/-- An event to come at once: it stands at the head of the agenda, due now. -/
def State.soon (s : State) (i : Instr) : State := { s with agenda := (s.g, i) :: s.agenda }

/- Acts of the collective die that wait -/
/-- An act of the collective die lacks something. -/
def State.want (s : State) (w : Want) : State := { s with wants := if s.wants.contains w then s.wants else s.wants ++ [w] }
def State.waitsFor (s : State) (k : Task) : Bool := s.waits.any (·.task == k)
def State.dropWait (s : State) (k : Task) : State := { s with waits := s.waits.filter (·.task != k) }
/-- What some acts lack has come, with translations if it was those: an event that lacks nothing more is tried again. -/
def State.supply (s : State) (p : Want → Bool) (got : List AtcEntry) : State :=
  let hit (w : Wait) : Bool := w.wants.any p
  let left (w : Wait) : Wait := { w with wants := w.wants.filter (!p ·), got := got ++ w.got }
  let now := (s.waits.filter hit).filterMap fun w => match w.task, (left w).wants with
    | .event i, [] => some i
    | _, _ => none
  now.foldl (fun s i => s.soon i) { s with waits := s.waits.map fun w => if hit w then left w else w }

/-- Insertion into the agenda by due cycle, after what is due no later. -/
def insertDue (g : Nat) (i : Instr) : List (Nat × Instr) → List (Nat × Instr)
  | [] => [(g, i)]
  | (h, j) :: r => if g < h then (g, i) :: (h, j) :: r else (h, j) :: insertDue g i r
def State.at' (s : State) (g : Nat) (i : Instr) : State := { s with agenda := insertDue g i s.agenda }
/-- An event whose time the spec leaves open but for a least number of cycles: after a free delay beyond it, of one cycle
at least. -/
def State.laterBy (s : State) (n : Nat) (i : Instr) : State :=
  { s with agenda := insertDue (s.g + 1 + n + Config.delay s.fresh) i s.agenda, fresh := s.fresh + 1 }
def State.later (s : State) (i : Instr) : State := s.laterBy 0 i

end Sys2Proof.Machine
end

