-- ==== Sys2Proof/Machine/Tier.lean ====
section
/-! DEFINITION. The memory tiers (07_memory_tiers.md): frames and their homes, the stacks as caches with their error
marks, scratch, quarantine and write-back, and what one 64-byte granule reads as or takes at each level. -/

namespace Sys2Proof.Machine

def State.modTier (s : State) (f : Tier → Tier) : State := { s with tier := f s.tier }
def State.frame (s : State) (f : Nat) : Frame := Map.get .start s.tier.frames f
def State.setFrame (s : State) (f : Nat) (e : Frame) : State :=
  s.modTier fun t => { t with frames := Map.set .start t.frames f e }

/-- Home die of an HBM frame (R160). -/
def homeDie (h : Nat) : Nat := h / 786432 / 3
/-- HBM frames of the package (R160). -/
def hbmFrames : Nat := 9437184
/-- The frame map itself lies in the 4,096 highest frames of the lowest die that is not OFF: 256 MiB (R162). -/
def State.mapFrames (s : State) : Nat × Nat :=
  let d := ((List.range 4).find? fun d => s.dieState d != 0).getD 0
  ((d + 1) * 2359296 - 4096, (d + 1) * 2359296)
/-- An HBM frame Scarab may allot: on a die that is not OFF, not in use, not the map's (R15, R162). -/
def State.hbmFree (s : State) (h : Nat) : Bool :=
  decide (h < hbmFrames) && s.dieState (homeDie h) != 0 && !Map.get false s.tier.used h &&
  !(decide (s.mapFrames.1 ≤ h) && decide (h < s.mapFrames.2))
/-- The lowest free HBM frame, searched among as many frames as are in use and one more on each die (see the log). -/
def State.firstFree (s : State) : Option Nat :=
  let n := s.tier.used.length + 1
  ((List.range 4).flatMap fun d => (List.range n).map (d * 2359296 + ·)).find? s.hbmFree
/-- SCARAB_STAT.FREE (R149). -/
def State.freeCount (s : State) : Nat :=
  ((List.range 4).filter fun d => s.dieState d != 0).length * 2359296 -
    (if (List.range 4).all fun d => s.dieState d == 0 then 0 else 4096) - s.tier.used.length
def State.useHbm (s : State) (h : Nat) (b : Bool) : State :=
  s.modTier fun t => { t with used := Map.set false t.used h b }

/- Stack granules, by (((die·384 + slice)·1024 + set)·16 + way) (R149) -/
def keyDie (k : Nat) : Nat := k / 16 / 1024 / 384
def keySliceIdx (k : Nat) : Nat := k / 16 / 1024
def keyWay (k : Nat) : Nat := k % 16
def keySet (k : Nat) : Nat := k / 16
/-- 512-byte region number of a granule of a frame (R151). -/
def regionOf (f i : Nat) : Nat := f * 128 + i / 8

def State.wayMask (s : State) (t d : Nat) : Nat := s.regBits (rStackWays t) (16 * d + 15) (16 * d)
/-- Ways of a die that are scratch of some partition (R155). -/
def State.scratchMask (s : State) (d : Nat) : Nat :=
  (List.range 32).foldl (fun m p => m ||| s.regBits (rStackSplit p d) 15 0) 0
def hasBit (m i : Nat) : Bool := m / 2 ^ i % 2 == 1

/- Marks -/
def State.setGran (s : State) (k : Nat) (x : Gran) : State := s.modTier fun t => { t with stack := Map.put t.stack k x }
/-- The blocks that satisfy a test are dropped without write-back. -/
def State.dropGrans (s : State) (p : Nat → Gran → Bool) : State :=
  s.modTier fun t => { t with stack := t.stack.filter fun e => !p e.1 e.2 }

/-- HBM bytes of a granule of a frame. -/
def State.hbmGran (s : State) (h i : Nat) : List Byte := s.bytes (hbmKey h (64 * i)) 64
/-- Bytes under a mask written into a granule held as a list. -/
def mergeBytes (old new : List Byte) (mask : Nat) : List Byte :=
  (List.range 64).map fun j => if hasBit mask j then new.getD j 0 else old.getD j 0
def State.putMasked (s : State) (key : Nat) (bs : List Byte) (mask : Nat) : State :=
  (List.range 64).foldl (fun s j => if hasBit mask j then s.putBytes (key + j) [bs.getD j 0] else s) s

def State.hbmMarkOf (s : State) (h i : Nat) : Mark := Map.get .clean s.tier.hbmMark (h * 1024 + i)
def State.setHbmMark (s : State) (h i : Nat) (m : Mark) : State :=
  s.modTier fun t => { t with hbmMark := Map.set .clean t.hbmMark (h * 1024 + i) m }

/-- The home stack's copy of a granule, if it holds one (R237). -/
def State.homeCopy (s : State) (f i : Nat) : Option (Nat × Gran) :=
  let d := homeDie (s.frame f).hbm
  s.tier.stack.find? fun e => keyDie e.1 == d && e.2.frame == f && e.2.idx == i

/-- Crews of a tenant end with cause 0x0A, named by a core (R170, R171, R395). -/
def State.endTenant (s : State) (t core : Nat) : State :=
  (s.pilot.crews.filter fun e => e.2.tenant == some t).foldl (fun s e => s.failCrew e.1 0x0A core) s

def isDirty (x : Gran) : Bool := x.dirty != 0
/-- Granules of one block (R150): one set, one frame, one first granule. -/
def sameBlock (k : Nat) (x : Gran) (k' : Nat) (y : Gran) : Bool :=
  keySet k' == keySet k && y.frame == x.frame && y.blk == x.blk
/-- The owner tag of a granule's block has a flipped bit, and the block holds a dirty granule (R150, R171; see the log). -/
def State.badTag (s : State) (k : Nat) (x : Gran) : Bool :=
  s.tier.stack.any fun e => sameBlock k x e.1 e.2 && e.2.mark.tag
def State.dirtyBlock (s : State) (k : Nat) (x : Gran) : Bool :=
  s.tier.stack.any fun e => sameBlock k x e.1 e.2 && isDirty e.2
/-- All granules that satisfy a test, in the order of their keys, each as it stands when its turn comes. -/
def State.eachGran (s : State) (p : Nat → Gran → Bool) (act : State → Nat → Gran → State) : State :=
  (s.tier.stack.filter fun e => p e.1 e.2).foldl (fun s e =>
    match s.tier.stack.find? (·.1 == e.1) with
    | some (k, x) => act s k x
    | none => s) s

/- Errors of the stacks and of HBM (R170 to R172, R395, R396). A frame that an error retires may, by what its quarantine
writes back, meet another error: `ret` retires a frame, for an error of the granule at a key, or of HBM when there is none,
named by a core. -/

/-- A dirty granule whose stored bits are lost: its owner's crews end and its frame is retired (R170). -/
def State.loseGran (ret : State → Nat → Option Nat → Nat → State) (s : State) (k : Nat) (x : Gran) (core : Nat) : State :=
  ret ((s.bump (rMtErr (keyDie k)) 31 16).endTenant x.owner core) x.frame (some k) core
/-- The store of part of a granule, or of all of it, into a stack's copy: what it finds in the stored bits, then the bytes
(R170, R395). The answer is true when the store does not commit; a clean copy with a mark goes, and takes nothing. -/
def State.intoGran (ret : State → Nat → Option Nat → Nat → State) (s : State) (k : Nat) (x : Gran) (bs : List Byte) (mask core : Nat)
    (makeDirty : Bool) : State × Bool :=
  let full : Bool := mask == 2 ^ 64 - 1
  if !full && x.mark.data = 2 then
    if isDirty x then (s.loseGran ret k x core, true)
    else ((s.bump (rMtErr (keyDie k)) 31 16).dropGrans (fun k' y => k' == k && y.frame == x.frame), false)
  else if !full && x.mark.poison then (s, true)
  else
    let s := if !full && x.mark.data = 1 then s.bump (rMtErr (keyDie k)) 15 0 else s
    (s.setGran k { x with
      bytes := mergeBytes x.bytes bs mask
      dirty := if makeDirty then x.dirty ||| BitVec.ofNat 64 mask else x.dirty
      mark := { x.mark with data := 0, poison := false } }, false)
/-- The bytes of a store reach HBM: a store of part of a granule reads it (R170, R395). True when it does not commit; a frame
that has been retired takes no byte. -/
def State.intoHbm (ret : State → Nat → Option Nat → Nat → State) (s : State) (f i : Nat) (bs : List Byte) (mask core : Nat) : State × Bool :=
  let h := (s.frame f).hbm
  let m := s.hbmMarkOf h i
  if (s.frame f).state = .retired then (s, true)
  else if mask ≠ 2 ^ 64 - 1 && (m.poison || m.data = 2) then (ret (s.setHbmMark h i ⟨0, false, true⟩) f none core, true)
  else ((s.putMasked (hbmKey h (64 * i)) bs mask).setHbmMark h i .clean, false)
/-- A tag parity error in a granule's block (R171): a clean block goes; a dirty one ends the crews of every tenant with a
block in the set, and its frame is retired. -/
def State.tagErrorR (ret : State → Nat → Option Nat → Nat → State) (s : State) (k : Nat) (x : Gran) (core : Nat) : State :=
  let s := s.bump (rMtErr (keyDie k)) 47 32
  if !s.dirtyBlock k x then s.dropGrans (sameBlock k x)
  else
    let owners := ((s.tier.stack.filter fun e => keySet e.1 == keySet k).map (·.2.owner)).eraseDups
    ret (owners.foldl (fun s t => s.endTenant t core) s) x.frame (some k) core
/-- An uncorrectable error in the presence or dirty-way vector of a set: a tag parity error in every way of it (R170). -/
def State.vectorErrorR (ret : State → Nat → Option Nat → Nat → State) (s : State) (set core : Nat) : State :=
  ({ s with tier := { s.tier with vecMark := Map.set 0 s.tier.vecMark set 0 } }).eachGran (fun k _ => keySet k == set) fun s k x =>
    s.tagErrorR ret k x core
/-- A set's vectors are read: a single flipped bit is corrected and counted (R170). -/
def State.vectorsR (ret : State → Nat → Option Nat → Nat → State) (s : State) (set core : Nat) : State :=
  match Map.get 0 s.tier.vecMark set with
  | 0 => s
  | 1 => ({ s with tier := { s.tier with vecMark := Map.set 0 s.tier.vecMark set 0 } }).bump (rMtErr (set / 1024 / 384)) 15 0
  | _ => s.vectorErrorR ret set core
/-- Bytes that arrive at the home of a frame: HBM, and the home stack's copy if there is one (R152, R237), with the poison of
the granule they come from. `skip` is the granule that is being written back. -/
def State.toHomeR (ret : State → Nat → Option Nat → Nat → State) (s : State) (skip : Option Nat) (f i : Nat) (bs : List Byte)
    (mask : Nat) (poison : Bool) (core : Nat) : State × Bool :=
  let copy : State × Bool := match s.homeCopy f i with
    | none => (s, false)
    | some (k, x) =>
      if some k = skip then (s, false)
      else if s.badTag k x then (s.tagErrorR ret k x core, s.dirtyBlock k x)
      else if poison then (s.setGran k { x with bytes := mergeBytes x.bytes bs mask, mark := { x.mark with poison := true } }, false)
      else s.intoGran ret k x bs mask core false
  if copy.2 then copy
  else if poison then
    let h := (s.frame f).hbm
    ((copy.1.putMasked (hbmKey h (64 * i)) bs mask).setHbmMark h i ⟨0, false, true⟩, false)
  else copy.1.intoHbm ret f i bs mask core
/-- One granule's dirty bytes go home, with its poison (R152, R170); it stays, clean. -/
def State.sendHomeR (ret : State → Nat → Option Nat → Nat → State) (s : State) (k : Nat) (x : Gran) : State :=
  match s.toHomeR ret (some k) x.frame x.idx x.bytes x.dirty.toNat x.mark.poison 0xFFFF with
  | (s, true) => s
  | (s, false) => s.setGran k { x with dirty := 0 }
/-- Write-back of one granule, which reads its stored bits: an error found is reported with core 0xFFFF (R152, R170, R171,
R395). -/
def State.writeBackR (ret : State → Nat → Option Nat → Nat → State) (s : State) (k : Nat) (x : Gran) : State :=
  if !isDirty x then s
  else if 1 < Map.get 0 s.tier.vecMark (keySet k) then s.vectorErrorR ret (keySet k) 0xFFFF
  else if s.badTag k x then s.tagErrorR ret k x 0xFFFF
  else if x.mark.data = 2 then s.loseGran ret k x 0xFFFF
  else if x.mark.data = 1 then (s.bump (rMtErr (keyDie k)) 15 0).sendHomeR ret k { x with mark := { x.mark with data := 0 } }
  else s.sendHomeR ret k x
/-- Quarantine of a way of a slice (R172): the other blocks with a granule in it are written back and invalidated, and the
way is disabled; the fourth way of a slice starts its replacement when a spare is left (R19, R21). -/
def State.quarantineR (ret : State → Nat → Option Nat → Nat → State) (s : State) (k : Nat) : State :=
  let sl := keySliceIdx k
  let w := keyWay k
  let old := Map.get 0 s.tier.disable sl
  if hasBit old w then s
  else
    let heads := s.tier.stack.filter fun e => keySliceIdx e.1 == sl && keyWay e.1 == w
    let mine (k' : Nat) (y : Gran) : Bool := heads.any fun e => sameBlock e.1 e.2 k' y
    let new := old + 2 ^ w
    let s := s.modTier fun t => { t with disable := Map.set 0 t.disable sl new }
    let s := (s.eachGran mine fun s k x => s.writeBackR ret k x).dropGrans mine
    let d := sl / 384
    let s := s.bump (rMtErr d) 63 48
    let count := ((List.range 16).filter (hasBit new)).length
    let under := (s.tier.copying.filter fun x => x / 384 == d).length
    if count = 4 && s.regBits rPkgSpare (16 * d + 12) (16 * d + 8) > under && !s.tier.copying.contains sl then
      (s.modTier fun t => { t with copying := sl :: t.copying }).later (.sliceCopyDone d (sl % 384))
    else s
/-- The HBM frame of a retired entry is scrubbed and freed (R396). -/
def State.releaseHbm (s : State) (h : Nat) : State :=
  ((s.zeroRange (hbmKey h 0) 65536).modTier fun t => { t with hbmMark := t.hbmMark.filter fun e => e.1 / 1024 != h }).useHbm h false
/-- A frame retired for a stack error (R396): its blocks go without write-back, its entry is RETIRED, its HBM frame is
zeroed and freed, and the way is quarantined. For an error of HBM (R170) every stack first writes its dirty bytes back and
drops its blocks (R165), and the HBM frame, which R19 repairs, is not freed. The first number bounds how many frames one
error can retire: no chain of them is longer than the number of granules held, and with none left the rest is as if no
further error were found. -/
def State.retireBy : Nat → State → Nat → Option Nat → Nat → State
  | 0, s, f, _, _ => (s.dropGrans fun _ x => x.frame == f).setFrame f { s.frame f with state := .retired }
  | n + 1, s, f, some k, _ =>
    let e := s.frame f
    let s := s.dropGrans fun _ x => x.frame == f
    ((s.setFrame f { e with state := .retired }).releaseHbm e.hbm).quarantineR (State.retireBy n) k
  | n + 1, s, f, none, _ =>
    let s := s.eachGran (fun _ x => x.frame == f) fun s k x => s.writeBackR (State.retireBy n) k x
    let s := s.dropGrans fun _ x => x.frame == f
    s.setFrame f { s.frame f with state := .retired }
/-- Retirement for an error, with all the room a chain of errors can take. -/
def State.retireFrame (s : State) (f : Nat) (k : Option Nat) (core : Nat) : State :=
  State.retireBy (s.tier.stack.length + s.tier.frames.length + 1) s f k core
def State.toHome (s : State) (skip : Option Nat) (f i : Nat) (bs : List Byte) (mask : Nat) (poison : Bool) (core : Nat) : State × Bool :=
  s.toHomeR State.retireFrame skip f i bs mask poison core
def State.tagError (s : State) (k : Nat) (x : Gran) (core : Nat) : State := s.tagErrorR State.retireFrame k x core
def State.writeBack (s : State) (k : Nat) (x : Gran) : State := s.writeBackR State.retireFrame k x
def State.quarantine (s : State) (k : Nat) : State := s.quarantineR State.retireFrame k
/-- All dirty granules that satisfy a test are written back. -/
def State.writeBackAll (s : State) (p : Nat → Gran → Bool) : State := s.eachGran p State.writeBack
/-- A clean granule with a mark: its block is invalidated, after its other dirty granules are written back (R152, R170). -/
def State.dropBlock (s : State) (k : Nat) (x : Gran) : State :=
  (s.writeBackAll fun k' y => k' != k && sameBlock k x k' y).dropGrans (sameBlock k x)

/-- What a lookup of a granule found. -/
inductive Look where
  | hit (k : Nat) (x : Gran)
  | miss
  /-- the access found an uncorrectable mark that ends crews, or a poisoned granule: it does not commit -/
  | poison
  | dead
  deriving DecidableEq, Repr

/-- Lookup of granule i of frame f in die d's stack for owner t, in the ways of t's mask, with the errors a read
detects (R153, R170, R171, R395); dead too when what it wrote back has retired the frame (R396). `t = none` is the system, which finds any owner's block. -/
def State.look (s : State) (d f i : Nat) (t : Option Nat) (core : Nat) : State × Look :=
  let region := regionOf f i
  let s := s.vectorsR State.retireFrame ((d * 384 + Config.hashSlice d region) * 1024 + Config.hashSet d region) core
  let mine (e : Nat × Gran) : Bool :=
    keyDie e.1 == d && e.2.frame == f && e.2.idx == i &&
    (match t with | none => true | some t => e.2.owner == t && hasBit (s.wayMask t d) (keyWay e.1))
  match s.tier.stack.find? mine with
  | none => (s, if (s.frame f).state = .retired then .dead else .miss)
  | some (k, x) =>
    if s.badTag k x then (s.tagError k x core, if s.dirtyBlock k x then .dead else .miss)
    else if x.mark.data = 2 then
      if isDirty x then (s.loseGran State.retireFrame k x core, .dead)
      else
        let s := (s.bump (rMtErr d) 31 16).dropBlock k x
        (s, if (s.frame f).state = .retired then .dead else .miss)
    else if x.mark.poison then (s, .poison)
    else if x.mark.data = 1 then
      let x := { x with mark := .clean }
      ((s.bump (rMtErr d) 15 0).setGran k x, .hit k x)
    else (s, .hit k x)

/-- Whether a slice serves no block: its group is off, or its die's stack is gated, the die not being LIVE (R15, R159). -/
def State.sliceOff (s : State) (d slice : Nat) : Bool := s.dieState d != 2 || s.tier.off.contains (24 * d + slice / 16)

/-- Ways of a set, allowed to a tenant, that serve as cache ways and are not disabled (R153). -/
def State.cacheWays (s : State) (t d slice : Nat) : List Nat :=
  if s.sliceOff d slice then []
  else (List.range 16).filter fun w =>
    hasBit (s.wayMask t d) w && !hasBit (s.scratchMask d) w && !hasBit (Map.get 0 s.tier.disable (d * 384 + slice)) w

/-- The replacement choice: one block among those in the allowed ways of a set is written back and goes (R151). -/
def State.evictOne (s : State) (set : Nat) (ways : List Nat) : State :=
  let cand := s.tier.stack.filter fun e => keySet e.1 == set && ways.contains (keyWay e.1)
  match cand[Config.victim s.fresh % cand.length]? with
  | none => s
  | some (k, x) => ({ s with fresh := s.fresh + 1 }.writeBackAll (sameBlock k x)).dropGrans (sameBlock k x)

/-- Evictions until n of the ways are free, at most 16. -/
def State.makeRoom (s : State) (set : Nat) (ways : List Nat) (n : Nat) : Nat → State
  | 0 => s
  | k + 1 =>
    let used := (s.tier.stack.filter fun e => keySet e.1 == set && ways.contains (keyWay e.1)).length
    if ways.length - used ≥ n then s else (s.evictOne set ways).makeRoom set ways n k

/-- Bytes a fill takes from the home of a frame, and whether their line has an uncorrectable mark there. -/
def State.homeBytes (s : State) (f i : Nat) : List Byte × Bool :=
  let h := (s.frame f).hbm
  match s.homeCopy f i with
  | some (_, x) => (x.bytes, x.mark.poison || x.mark.data == 2)
  | none => (s.hbmGran h i, (s.hbmMarkOf h i).poison || (s.hbmMarkOf h i).data == 2)

/-- The block size for a new block: a power of two that the ways allow, that takes in no granule barred: of a block
present, or with a bad line at home (R151, R153). -/
def blockSize (barred : Nat → Bool) (ways i : Nat) : Nat → Nat
  | 0 => 1
  | k + 1 =>
    let n := 2 ^ (k + 1)
    if n ≤ ways && !(List.range n).any (fun j => barred (i / n * n + j)) then n else blockSize barred ways i k

/-- A block with granule i of frame f is allocated in die d's stack for tenant t and filled from the home; false when
no way allows one (R153). A fill reads no line for another access, so a line with an uncorrectable mark at home is left out
of the block (R151, R395; see the log). -/
def State.allocate (s : State) (d f i t : Nat) : State × Bool :=
  let region := regionOf f i
  let slice := Config.hashSlice d region
  let set := (d * 384 + slice) * 1024 + Config.hashSet d region
  let barred (s : State) (j : Nat) : Bool :=
    (s.tier.stack.any fun e => keyDie e.1 == d && e.2.frame == f && e.2.idx == j) || (j != i && (s.homeBytes f j).2)
  let ways := s.cacheWays t d slice
  if ways.isEmpty then (s, false)
  else
    let want := Config.predict s.fresh % 4
    let n := blockSize (barred s) ways.length i want
    let s := { s with fresh := s.fresh + 1 }.makeRoom set ways n 16
    -- an eviction may have met an error that disabled a way or retired the frame
    let freeWays := (s.cacheWays t d slice).filter fun w => !s.tier.stack.any fun e => e.1 == set * 16 + w
    if freeWays.isEmpty || (s.frame f).state != .resident then (s, false)
    else
      let n := blockSize (barred s) freeWays.length i want
      let base := i / n * n
      (((freeWays.take n).zipIdx).foldl (fun s (w, j) =>
        s.setGran (set * 16 + w) ⟨t, f, base + j, base, n, (s.homeBytes f (base + j)).1, 0, .clean⟩) s, true)

/-- The result of reading a granule: its bytes, or poison met, or an error that ended crews (R170). -/
structure Got where
  s      : State
  bytes  : List Byte
  poison : Bool
  dead   : Bool

/-- A read of HBM: a single flipped bit is corrected; two, or poison, poison the data and retire the frame (R170). -/
def State.readHbm (s : State) (f i core : Nat) : Got :=
  let h := (s.frame f).hbm
  let m := s.hbmMarkOf h i
  if m.poison || m.data = 2 then ⟨(s.setHbmMark h i ⟨0, false, true⟩).retireFrame f none core, s.hbmGran h i, true, false⟩
  else ⟨if m.data = 1 then s.setHbmMark h i .clean else s, s.hbmGran h i, false, false⟩

/-- A read at the home without allocation: the home stack's copy stands over HBM (R237). -/
def State.readHome (s : State) (f i core : Nat) : Got :=
  let d := homeDie (s.frame f).hbm
  match s.look d f i none core with
  | (s, .hit _ x) => ⟨s, x.bytes, false, false⟩
  | (s, .miss) => s.readHbm f i core
  | (s, .poison) => ⟨s, [], true, false⟩
  | (s, .dead) => ⟨s, [], false, true⟩

/-- A read of granule i of frame f through die d's stack for tenant t (R153, R160). -/
def State.readStack (s : State) (d f i : Nat) (t : Option Nat) (core : Nat) : Got :=
  match t with
  | none => if homeDie (s.frame f).hbm = d then s.readHome f i core else
      match s.look d f i none core with
      | (s, .hit _ x) => ⟨s, x.bytes, false, false⟩
      | (s, .miss) => s.readHome f i core
      | (s, .poison) => ⟨s, [], true, false⟩
      | (s, .dead) => ⟨s, [], false, true⟩
  | some tn =>
    match s.look d f i t core with
    | (s, .hit _ x) => ⟨s, x.bytes, false, false⟩
    | (s, .poison) => ⟨s, [], true, false⟩
    | (s, .dead) => ⟨s, [], false, true⟩
    | (s, .miss) =>
      let g := s.readHome f i core
      if g.poison || g.dead then g
      else { g with s := if (g.s.homeCopy f i).isSome && homeDie (g.s.frame f).hbm == d then g.s
                         else (g.s.allocate d f i tn).1 }

/-- A store of a whole granule reads nothing: it replaces the marks of a stack's copy (R303, R395). -/
def State.clearMarks (s : State) (d f i : Nat) : State :=
  let clear (e : Nat × Gran) : Nat × Gran :=
    if keyDie e.1 == d && e.2.frame == f && e.2.idx == i then
      (e.1, { e.2 with mark := { e.2.mark with data := 0, poison := false } }) else e
  s.modTier fun tr => { tr with stack := tr.stack.map clear }
/-- Bytes stored at the home: HBM, or the home stack's copy with its dirty bytes (R152, R237); a store of part of a granule
reads it (R395). A frame that an error on the way has retired takes none (R396). -/
def State.storeHome (s : State) (f i : Nat) (bs : List Byte) (mask core : Nat) : Got :=
  let got (x : State × Bool) : Got := ⟨x.1, [], x.2, false⟩
  let s := if mask = 2 ^ 64 - 1 then s.clearMarks (homeDie (s.frame f).hbm) f i else s
  match s.look (homeDie (s.frame f).hbm) f i none core with
  | (s, .hit k x) => got (s.intoGran State.retireFrame k x bs mask core true)
  | (s, .miss) => got (s.intoHbm State.retireFrame f i bs mask core)
  | (s, .poison) => ⟨s, [], true, false⟩
  | (s, .dead) => ⟨s, [], false, true⟩

/-- A store through die d's stack: a hit, or a block filled from the home, takes the bytes and marks them dirty; with
no way allowed it performs at the home (R152, R153, R397). A store of part of a granule reads it; one of a whole granule
replaces the marks of the copy it writes, and of that alone (R170, R395). -/
def State.storeStack (s : State) (d f i : Nat) (t : Option Nat) (core : Nat) (bs : List Byte) (mask : Nat) : Got :=
  let full : Bool := mask == 2 ^ 64 - 1
  let s := if full then s.clearMarks d f i else s
  match s.look d f i t core with
  | (s, .hit k x) =>
    ⟨s.setGran k { x with bytes := mergeBytes x.bytes bs mask, dirty := x.dirty ||| BitVec.ofNat 64 mask }, [], false, false⟩
  | (s, .poison) => ⟨s, [], true, false⟩
  | (s, .dead) => ⟨s, [], false, true⟩
  | (s, .miss) =>
    match t with
    | none => s.storeHome f i bs mask core
    | some tn =>
      if (s.homeCopy f i).isSome && homeDie (s.frame f).hbm == d then s.storeHome f i bs mask core
      else
        -- the fill of the granule that the store writes in part reads the home
        let g : Got := if full then ⟨s, [], false, false⟩ else s.readHome f i core
        if g.poison || g.dead then g
        else
          let (s, ok) := g.s.allocate d f i tn
          if !ok then s.storeHome f i bs mask core
          else
            match s.tier.stack.find? fun e => keyDie e.1 == d && e.2.frame == f && e.2.idx == i with
            | none => s.storeHome f i bs mask core
            | some (k, x) => ⟨s.setGran k { x with bytes := mergeBytes x.bytes bs mask, dirty := BitVec.ofNat 64 mask }, [], false, false⟩

/-- A P2 store: home HBM, and any home-stack copy (R237). -/
def State.storeHbm (s : State) (f i : Nat) (bs : List Byte) (mask core : Nat) : Got :=
  let d := homeDie (s.frame f).hbm
  let s := if mask = 2 ^ 64 - 1 then s.clearMarks d f i else s
  match s.look d f i none core with
  | (s, .dead) => ⟨s, [], false, true⟩
  | (s, .poison) => ⟨s, [], true, false⟩
  | (s, _) => let x := s.toHome none f i bs mask false core; ⟨x.1, [], x.2, false⟩

/- Scratch (R155, R156) -/
/-- Way of an offset in the stack aperture, and its slice among the package's (R155). -/
def scratchWay (o : Nat) : Nat := o % 2 ^ 29 / 0x1800000
def scratchSlice (o : Nat) : Nat := 384 * (o / 2 ^ 29) + o % 2 ^ 29 % 0x1800000 / 64 % 384
def State.setScrMark (s : State) (o : Nat) (m : Mark) : State :=
  s.modTier fun t => { t with scrMark := Map.set .clean t.scrMark (o / 64) m }
/-- A read of the stored bits of a scratch granule: a single flipped bit is corrected, two make it poisoned, and MT_ERR
counts either (R170, R173); true when it is poisoned. A quarantined scratch way reads as poisoned (R172). -/
def State.lookScratch (s : State) (o : Nat) : State × Bool :=
  let m := Map.get .clean s.tier.scrMark (o / 64)
  if hasBit (Map.get 0 s.tier.disable (scratchSlice o)) (scratchWay o) then (s, true)
  else if m.data = 2 then ((s.bump (rMtErr (o / 2 ^ 29)) 31 16).setScrMark o ⟨0, false, true⟩, true)
  else if m.poison then (s, true)
  else if m.data = 1 then ((s.bump (rMtErr (o / 2 ^ 29)) 15 0).setScrMark o .clean, false)
  else (s, false)
def State.readScratch (s : State) (o : Nat) : Got :=
  match s.lookScratch o with
  | (s, true) => ⟨s, [], true, false⟩
  | (s, false) => ⟨s, s.bytes (scratchKey (o / 64 * 64)) 64, false, false⟩
/-- A store to scratch: of part of a granule, it reads it (R395); of all of it, it clears its marks (R170). A disabled way
takes nothing (R150). -/
def State.storeScratch (s : State) (o : Nat) (bs : List Byte) (mask : Nat) : Got :=
  let off := hasBit (Map.get 0 s.tier.disable (scratchSlice o)) (scratchWay o)
  let full : Bool := mask == 2 ^ 64 - 1
  let put (s : State) : State :=
    ((s.putMasked (scratchKey (o / 64 * 64)) bs mask).modTier fun t =>
      { t with scrHeld := Map.set false t.scrHeld (o / 64) true })
  if full then ⟨if off then s else (put s).setScrMark o .clean, [], false, false⟩
  else match s.lookScratch o with
    | (s, true) => ⟨s, [], true, false⟩
    | (s, false) => ⟨put s, [], false, false⟩

/- Frames (R162 to R165) -/
/-- Before a frame leaves RESIDENT or is copied, every stack writes its dirty bytes back; on leaving, its blocks go. -/
def State.flushFrame (s : State) (f : Nat) (drop : Bool) : State :=
  let s := s.writeBackAll fun _ x => x.frame == f
  if drop then s.dropGrans fun _ x => x.frame == f else s

/-- Whether an entry holds a HBM frame of its own; a frame in SCRUB may still wait for one (see the log). -/
def Frame.placed (e : Frame) : Bool :=
  match e.state with
  | .resident | .inFlight => true
  | .scrub => decide (e.hbm < hbmFrames)
  | _ => false
/-- The next scrub of the background order begins (R164). -/
def State.nextScrub (s : State) : State :=
  match s.tier.scrub with
  | [] => s
  | f :: _ => s.later (.frameScrubDone f)
/-- A frame leaves the background order; if it was the one being scrubbed, the next one begins. -/
def State.leaveScrub (s : State) (f : Nat) : State :=
  let first : Bool := s.tier.scrub.head? == some f
  let s := s.modTier fun t => { t with scrub := t.scrub.filter (· != f) }
  if first then s.nextScrub else s
/-- A fetch that was asked for is asked for no longer: nobody will be charged for it (R393), and no memory swap waits for it
(R167). -/
def State.dropFetch (s : State) (f : Nat) : State :=
  s.modTier fun t => { t with fetch := t.fetch.filter (· != f), asker := Map.set 0 t.asker f 0,
                              swap := t.swap.map fun x => (x.1, x.2.filter (· != f)) }
/-- A frame enters SCRUB: its stack lines go without write-back, and the background scrub is queued (R123, R164). -/
def State.scrubFrame (s : State) (f : Nat) : State :=
  let s := (s.dropGrans fun _ x => x.frame == f).dropFetch f
  let e := s.frame f
  let s := s.setFrame f { e with state := .scrub, out := false, hbm := if e.placed then e.hbm else hbmFrames }
  let s := s.modTier fun t => { t with evict := t.evict.filter (· != f) }
  if s.tier.scrub.contains f then s
  else
    let first := s.tier.scrub.isEmpty
    let s := s.modTier fun t => { t with scrub := t.scrub ++ [f] }
    if first then s.later (.frameScrubDone f) else s

/-- Candidates for eviction (R166): RESIDENT frames with a backing copy whose owner holds no current slice, REC clear
before REC set, clean before dirty, in ascending number. -/
def State.victimFrame (s : State) : Option Nat :=
  let held (t : Nat) : Bool := (List.range 32).any fun p => s.sliceTenant p == some t
  let c := s.tier.frames.filter fun e => e.2.state == .resident && e.2.owned && e.2.kind != 0 && !held e.2.owner
  let rank (e : Nat × Frame) : Nat := (if e.2.recd then 2 else 0) + (if e.2.dirty then 1 else 0)
  ((List.range 4).findSome? fun r => c.find? fun e => rank e == r).map (·.1)

/-- A HBM frame is found for a fetch: a free one, or one a clean eviction frees; a dirty eviction is started and the
fetch waits (R164, R166). -/
def State.findHbm (s : State) : State × Option Nat :=
  match s.firstFree with
  | some h => (s, some h)
  | none =>
    match s.victimFrame with
    | none => (s, none)
    | some v =>
      let s := s.flushFrame v true
      let e := s.frame v
      if e.state ≠ .resident then (s, s.firstFree)
      else if e.dirty then
        ((({ s with tier := { s.tier with evict := s.tier.evict ++ [v] } }).setFrame v
          { e with state := .inFlight, out := true }).later (.frameEvictDone v), none)
      else
        ((s.setFrame v { e with state := .absent }).useHbm e.hbm false, some e.hbm)

/-- Tier of a frame's backing copy: 1 HBM, 2 HOST, 3 PEER (R119, R120). -/
def Frame.tier (e : Frame) : Nat := if e.kind = 0 then 1 else if e.kind = 2 then 3 else 2
/-- The charge of a fetch that begins, to the tenant it was asked for (R120, R393). -/
def State.chargeFetch (s : State) (f : Nat) : State :=
  let t := Map.get 0 s.tier.asker f
  let s := s.modTier fun x => { x with asker := Map.set 0 x.asker f 0 }
  if t = 0 then s else s.chargeBytes (t - 1) (s.frame f).tier 65536
/- Peer memory (R33, R34) -/
/-- The port of a request at an address of a peer: its plane's, or the next in ascending order whose UP bit is set; none
while no port is up. -/
def State.peerPort (s : State) (a : Nat) : Option Nat :=
  ((List.range 36).map fun k => (a % 2 ^ 57 / 64 + k) % 36).find? fun p => s.regBit rUalState p
/-- Requests to a peer package, one for each 64-byte granule, each on the port that R34 gives it as it is sent. -/
def State.askPeer (s : State) (pkg a n : Nat) (write : Bool) : State :=
  (List.range ((n + 63) / 64)).foldl (fun s i =>
    match s.peerPort (a + 64 * i) with
    | some port => s.send (.peerAsk port pkg (a + 64 * i) (Nat.min 64 (n - 64 * i)) write)
    | none => s) s
/-- Package and address of a peer backing copy (R162). -/
def Frame.peerPkg (e : Frame) : Nat := Word.bits e.backing 57 48
def Frame.peerAddr (e : Frame) : Nat := Word.bits e.backing 47 16 * 65536
def peerBacking (e : Frame) : Nat := peerKey e.peerPkg e.peerAddr
/-- Whether a request to a frame's backing copy can be sent: to a peer, while a port is up. -/
def State.backingOpen (s : State) (e : Frame) : Bool := e.kind != 2 || s.regBits rUalState 35 0 != 0
/-- An act that would reach a backing copy now waits while its requests cannot be sent (R34). -/
def State.needBacking (s : State) (e : Frame) : State := if s.backingOpen e then s else s.want .port
/-- The requests that a copy from or to a peer backing copy sends. -/
def State.askBacking (s : State) (e : Frame) (write : Bool) : State :=
  if e.kind = 2 then s.askPeer e.peerPkg e.peerAddr 65536 write else s

/-- Scarab starts the fetch of an ABSENT frame, or queues it while no HBM frame is free, or no port is up to its peer (R34,
R163, R164, R166). -/
def State.fetchFrame (s : State) (f : Nat) : State :=
  let e := s.frame f
  if e.state ≠ .absent then s
  else
    match if s.backingOpen e then s.findHbm else (s, none) with
    | (s, some h) =>
      (((((s.askBacking e false).useHbm h true).setFrame f { e with state := .inFlight, hbm := h, out := false }).modTier fun t =>
        { t with fetch := (t.fetch.filter (· != f)) ++ [f] }).chargeFetch f).later (.frameFetchDone f true)
    | (s, none) => s.modTier fun t => { t with fetch := if t.fetch.contains f then t.fetch else t.fetch ++ [f] }
/-- A fetch that an access of the tenant, or its residency gate, asks for is charged to it once it begins (R120, R393); one
that already waits keeps whom it was asked for. -/
def State.fetchFor (s : State) (f : Nat) (t : Option Nat) : State :=
  if (s.frame f).state ≠ .absent || s.tier.fetch.contains f then s.fetchFrame f
  else (s.modTier fun x => { x with asker := Map.set 0 x.asker f ((t.map (· + 1)).getD 0) }).fetchFrame f

/- Translations (R50 to R54) -/
/-- The ATS page of an address: A[56:0] in 4 KiB pages (R52, R53). -/
def pageOf (a : Nat) : Nat := a % 2 ^ 57 / 4096
def State.atcFind (s : State) (o : Requester) (fn : Nat) (pasid : Option Nat) (a : Nat) : Option AtcEntry :=
  s.atc.find? fun e => e.owner == o && e.fn == fn && e.pasid == pasid &&
    decide (e.base ≤ a % 2 ^ 57) && decide (a % 2 ^ 57 < e.base + 2 ^ e.lg)
/-- Entries of a requester's cache (R51). -/
def Requester.entries : Requester → Nat
  | .core _ => 64
  | .bulk _ => 128
  | .scarab _ => 512
  | .pilot => 64
/-- An entry enters a requester's cache, in place of what it overlaps; a full cache loses one of a free choice (R51). -/
def State.fillAtc (s : State) (e : AtcEntry) : State :=
  let same (x : AtcEntry) : Bool := x.owner == e.owner && x.fn == e.fn && x.pasid == e.pasid
  let meets (x : AtcEntry) : Bool := same x && decide (x.base < e.base + 2 ^ e.lg) && decide (e.base < x.base + 2 ^ x.lg)
  let l := s.atc.filter fun x => !meets x
  let mine := l.filter fun x => x.owner == e.owner
  if mine.length < e.owner.entries then { s with atc := e :: l }
  else
    let v := mine[Config.victim s.fresh % mine.length]?
    { s with fresh := s.fresh + 1, atc := e :: l.filter fun x => some x != v }
/-- Page requests may be used by a function: the feature is accepted and PRI enabled. -/
def State.priOn (s : State) (fn : Nat) : Bool := s.feature fPRI && Map.get 0 s.pri fn != 0
def State.priLeft (s : State) (fn : Nat) : Bool := decide (Map.get 0 s.priUsed fn + 1 < Map.get 0 s.pri fn)
/-- A translation for Scarab or the Pilot, under a tenant's function and PASID or as the system (R50 to R54): by what has come for
the act that is being tried, or by the requester's cache, the translated address; none without the permission, or while the
function's interface is in ERROR (R68). One that is not held is lacking: the act waits for it, and nothing of it is done. -/
def State.askIommu (s : State) (o : Requester) (t : Option Nat) (a : Nat) (perm : Perm) : State × Option Nat :=
  let (fn, pasid) := s.fnPasid t
  let hit (e : AtcEntry) : Bool := e.owner == o && e.fn == fn && e.pasid == pasid &&
    decide (e.base ≤ a % 2 ^ 57) && decide (a % 2 ^ 57 < e.base + 2 ^ e.lg)
  if s.fnStopped fn then (s, none)
  else match (s.answers ++ s.atc).find? fun e => hit e && perm.ok e.r e.w with
    | some e => (s, some (e.tbase + (a % 2 ^ 57 - e.base)))
    | none =>
      if s.answers.any fun e => hit e && e.final then (s, none)
      else (s.want (.page o fn pasid (pageOf a) perm), none)

/-- The entries of a memory range moved to another place (64 KiB copies without listing every byte). -/
def State.copyRange (s : State) (src dst n : Nat) : State :=
  let es := s.mem.filter fun e => decide (src ≤ e.1) && decide (e.1 < src + n)
  let s := s.zeroRange dst n
  { s with mem := es.foldl (fun m e => Memory.write m (e.1 - src + dst) e.2) s.mem }

end Sys2Proof.Machine
end

