-- ==== Sys2Proof/Machine/Access.lean ====
section
/-! DEFINITION. How an access reaches memory: the address checks of R53, translation and ATS (R51, R52, R54), the class
of a translated address (R148), frame and scratch checks (R155, R163), the level at which it performs (R236), its
nominal latency (R195, R198, R284), and its reads and posted stores (R32, R239, R243 to R246). -/

namespace Sys2Proof.Machine

/-- An address in [56:0] with its upper bits equal to bit 56 (R53). -/
def canonical (a : Nat) : Bool := decide (a < 2 ^ 56) || (decide (2 ^ 64 - 2 ^ 56 ≤ a) && decide (a < 2 ^ 64))
/-- The subcode of fault 0x05 for n bytes at a, without alignment (R53). -/
def extentFault (a n : Nat) : Option Nat :=
  if !canonical a then some 1
  else
    let l := a + n - 1
    if l ≥ 2 ^ 64 || !canonical l || (l / 2 ^ 56 % 2 != a / 2 ^ 56 % 2) then some 2 else none


def Requester.die : Requester → Nat
  | .core c | .bulk c => dieOfCore c
  | _ => 4

/-- Misses that share one request: the same page of the same function and PASID (R52). -/
def AtsReq.same (r q : AtsReq) : Bool := r.fn == q.fn && r.pasid == q.pasid && r.page == q.page
/-- Translation Requests outstanding for a die: sent, not awaiting a page, each counted once however many share it. -/
def State.atsCount (s : State) (die : Nat) : Nat :=
  (s.ats.filter fun r => r.owner.die == die && !r.queued && !r.paging && !r.shares).length
def atsLimit (die : Nat) : Nat := if die = 4 then 256 else 512
/-- A miss: it shares a request for the same page, waits for a request slot, or is sent (R52). One that joins a request
whose page is being asked for waits with it (R54). -/
def State.askAts (s : State) (o : Requester) (fn : Nat) (pasid : Option Nat) (a : Nat) (perm : Perm) : State :=
  let new : AtsReq := ⟨0, o, fn, pasid, pageOf a, perm, false, false, false, false⟩
  if s.ats.any fun r => r.owner == o && r.perm == perm && r.same new then s
  else
    let (id, s) := s.newId
    match s.ats.find? (·.same new) with
    | some r => { s with ats := s.ats ++ [{ new with id := id, stale := r.stale, paging := r.paging, queued := r.queued, shares := true }] }
    | none =>
      let queued := decide (atsLimit o.die ≤ s.atsCount o.die)
      let s := { s with ats := s.ats ++ [{ new with id := id, queued := queued }] }
      if queued then s else s.send (.ats fn pasid new.page)

/-- A translation: the translated address, a miss that is being asked for, or no permission. -/
inductive Xl where
  | hit (t : Nat)
  | miss
  | refused
  deriving DecidableEq, Repr

/-- An access has taken the fault of a final completion: the entry goes, or, where it grants something, stays for what it
grants (R51, R54). -/
def AtcEntry.taken (e : AtcEntry) : Option AtcEntry := if e.r || e.w then some { e with final := false } else none
def State.translate (s : State) (o : Requester) (fn : Nat) (pasid : Option Nat) (a : Nat) (perm : Perm) : State × Xl :=
  match s.atcFind o fn pasid a with
  | some e =>
    if perm.ok e.r e.w then (s, .hit (e.tbase + (a % 2 ^ 57 - e.base)))
    else if e.final then ({ s with atc := s.atc.filterMap fun x => if x = e then x.taken else some x }, .refused)
    else (s.askAts o fn pasid a perm, .miss)
  | none => (s.askAts o fn pasid a perm, .miss)

/- Acts of the collective die (R52) -/
/-- What an act lacks is asked for: a translation of the host, under the die's limit and shared as any other (R52). -/
def State.askFor (s : State) (w : Want) : State :=
  match w with
  | .page o fn pasid page perm => s.askAts o fn pasid (4096 * page) perm
  | .port | .room => s
/-- An act of the collective die is done whole, or, while it lacks something, not at all: it then waits, with what has come for it
kept. An event that comes twice waits twice. -/
def State.whole {α : Type} (s : State) (k : Task) (f : State → State × α) : State × Option α :=
  let mine (w : Wait) : Bool := w.task == k && (!k.isEvent || w.wants.isEmpty)
  let old := s.waits.find? mine
  let got := (old.map (·.got)).getD []
  let rest (ws : List Wait) : List Wait := match old with
    | some w => ws.erase w
    | none => ws
  let x := f { s with wants := [], answers := got }
  if x.1.wants.isEmpty then ({ x.1 with wants := s.wants, answers := s.answers, waits := rest x.1.waits }, some x.2)
  else (x.1.wants.foldl State.askFor { s with waits := rest s.waits ++ [⟨k, x.1.wants, got⟩] }, none)
/-- An event of the collective die. -/
def State.wholeEvent (s : State) (i : Instr) (f : State → State) : State := (s.whole (.event i) fun s => (f s, ())).1

/-- Where a translated address lies (R148). -/
inductive Class where
  | frame (f off : Nat)
  | stack (o : Nat)
  | host (t : Nat)
  deriving DecidableEq, Repr

def State.classify (s : State) (t : Nat) : Class :=
  let fb := (s.reg rFrameAper).toNat / 2 ^ 40 * 2 ^ 40
  let sb := (s.reg rStackAper).toNat / 2 ^ 31 * 2 ^ 31
  if s.regBit rFrameAper 0 && decide (fb ≤ t) && decide (t - fb < 2 ^ 40) then .frame ((t - fb) / 65536) (t % 65536)
  else if s.regBit rStackAper 0 && decide (sb ≤ t) && decide (t - sb < 2 ^ 31) then .stack (t - sb)
  else .host t

/-- Classes of the same kind: an access that spans two kinds faults (R148). -/
def Class.kind : Class → Nat
  | .frame .. => 0
  | .stack _ => 1
  | .host _ => 2

/-- Whether a partition holds the scratch way of an offset in the stack aperture, its die LIVE (R155). -/
def State.scratchOk (s : State) (part : Option Nat) (o : Nat) : Bool :=
  let d := o / 2 ^ 29
  let w := o % 2 ^ 29 / 0x1800000
  match part with
  | none => false
  | some p => decide (w ≤ 15) && hasBit (s.regBits (rStackSplit p d) 15 0) w && s.dieState d == 2

/-- What a checked access met. -/
inductive Chk where
  | ok (s : State) (a : Access)
  /-- a read of a frame in SCRUB: zero, at once -/
  | zero (s : State) (a : Access)
  | stop (s : State) (st : Stop)

/-- Whether the slice that serves a granule on a die is waking or being copied (R159, R197). -/
def State.sliceBusy (s : State) (d f i : Nat) : Option Nat :=
  if s.tier.waking.isEmpty && s.tier.copying.isEmpty then none
  else
    let sl := Config.hashSlice d (regionOf f i)
    if s.tier.waking.contains (24 * d + sl / 16) || s.tier.copying.contains (384 * d + sl) then some sl else none

/-- Whether a die's stack holds a line of an SWM frame for an access, or has a way for it; with neither the access is
performed at the home, as one to a frame that is not SWM (R153, R397). The system allocates nothing. -/
def State.keepsLine (s : State) (d f i : Nat) (t : Option Nat) : Bool :=
  (s.tier.stack.any fun x => keyDie x.1 == d && x.2.frame == f && x.2.idx == i &&
    (match t with | none => true | some t => x.2.owner == t && hasBit (s.wayMask t d) (keyWay x.1))) ||
  (match t with | none => false | some t => !(s.cacheWays t d (Config.hashSlice d (regionOf f i))).isEmpty)
/-- The die at which an access to a frame performs, and its level, as the frame, the ways of the own die e and the dies stand now
(R160, R236, R397): the own die's stack for an SWM frame homed elsewhere that it keeps a line of, else the home, at P2 where
the home's stack is gated, its die being HOME_ONLY (R15). -/
def State.place (s : State) (e : Nat) (t : Option Nat) (f off pol : Nat) (p0 : Bool) : Nat × Nat :=
  let fr := s.frame f
  let home := if fr.hbm < hbmFrames then homeDie fr.hbm else e
  let swm := pol != 2 && fr.swm && home != e && s.keepsLine e f (off / 64) t
  (if p0 then 0 else if swm then 2 else if pol = 2 || s.dieState home != 2 then 3 else 1, if swm then e else home)
/-- The check of an access to a frame by a tenant, before any byte is touched (R163, R394). -/
def State.frameCheck (s : State) (e : Nat) (t : Option Nat) (faddr : Word) (slot f off n pol : Nat) (write p0 : Bool) : Chk :=
  let fr := s.frame f
  if (match t with | some t => !fr.owned || fr.owner != t | none => false) then
    .stop s (.trap ⟨0x06, 2, faddr⟩ slot)
  else
    let s := match t with
      | some _ => if fr.state == FState.retired then s else s.setFrame f { fr with cur := true }
      | none => s
    let fr := s.frame f
    let (level, die) := s.place e t f off pol p0
    match fr.state with
    | .retired => .stop s (.trap ⟨0x0A, 2, faddr⟩ slot)
    | .scrub => if write then .stop s (.freeze (.scrub f)) else .zero s ⟨off, n, some f, level, die⟩
    | .absent => .stop s (.park (.frame f))
    | .inFlight => .stop s (.park (.frame f))
    | .resident =>
      let s := if write then s.setFrame f { fr with dirty := true } else s
      match if level = 3 then none else s.sliceBusy die f (off / 64) with
      | some sl => .stop s (.freeze (.slice die sl))
      | none => .ok s ⟨off, n, some f, level, die⟩

/-- An access at policy P0, P1 or P2 of a requester's translations: n aligned bytes at device address a (R313, R372).
`p0` asks for the core cache. -/
def State.checkBy (s : State) (o : Requester) (cx slot : Nat) (a : Word) (n pol : Nat) (perm : Perm) (p0 : Bool) : Chk :=
  let addr := a.toNat
  match extentFault addr n with
  | some sub => .stop s (.trap ⟨0x05, sub, a⟩ slot)
  | none =>
    if addr % n ≠ 0 then .stop s (.trap ⟨0x05, 3, a⟩ slot)
    else
      let t := s.tenantOf cx
      let (fn, pasid) := s.fnPasid t
      match s.translate o fn pasid addr perm with
      | (s, .miss) => .stop s (.park (.page (pageOf addr) perm))
      | (s, .refused) => .stop s (.trap ⟨0x06, 1, a⟩ slot)
      | (s, .hit tr) =>
        if (s.classify tr).kind ≠ (s.classify (tr + n - 1)).kind then .stop s (.trap ⟨0x06, 3, a⟩ slot)
        else match s.classify tr with
          | .frame f off => s.frameCheck (dieOf cx) (if (s.ctx cx).sys then none else t) a slot f off n pol (perm != .r) p0
          | .stack o =>
            if !s.scratchOk (s.partOf cx) o then .stop s (.trap ⟨0x06, 4, a⟩ slot)
            else
              let sl := scratchSlice o
              if s.tier.copying.contains sl || s.tier.waking.contains (24 * (sl / 384) + sl % 384 / 16) then
                .stop s (.freeze (.slice (o / 2 ^ 29) (sl % 384)))
              else .ok s ⟨o, n, none, if p0 then 0 else 4, o / 2 ^ 29⟩
          | .host h => .ok s ⟨h, n, none, 5, 4⟩

/-- A b-slot access (R313). -/
def State.check (s : State) (cx slot : Nat) (a : Word) (n pol : Nat) (perm : Perm) (p0 : Bool) : Chk :=
  s.checkBy (.core (coreOf cx)) cx slot a n pol perm p0

/-- The nominal latency of a load (R195, R198, R284): requester's die, access, whether it is served by the core cache. A load
of a frame homed on a HOME_ONLY die takes that die's DIE_RLOAD, though R23 uses no entry that names a die not LIVE: R28 gives
no other number (see the log). -/
def nominal (e : Nat) (acc : Access) : Nat :=
  if acc.level = 6 then 4
  else if acc.level = 0 then 12
  else if acc.die = 4 then 2000
  else match acc.frame with
    | none => if acc.die = e then 48 else 48 + 2 * Config.xlat e acc.die
    | some _ => if acc.die ≠ e then Config.rload e acc.die else if acc.level = 3 then 600 else 48

/-- Key of a granule in a core cache: frames, scratch and host apart. -/
def lineKey (acc : Access) : Nat :=
  match acc.frame with
  | some f => f * 1024 + acc.loc / 64
  | none => if acc.die = 4 then 2 ^ 80 + acc.loc / 64 else 2 ^ 70 + acc.loc / 64

/-- The tenant a context's accesses act for; a system context acts for none (R163, R401). -/
def State.ownerOf (s : State) (cx : Nat) : Option Nat := if (s.ctx cx).sys then none else s.tenantOf cx

/-- Reading the granule of an access at its level, or, for the core cache, at the level that fills it. -/
def State.readLevel (s : State) (cx : Nat) (acc : Access) : Got :=
  match acc.frame with
  | some f =>
    if acc.level = 3 || (acc.level = 0 && s.dieState acc.die != 2) then s.readHome f (acc.loc / 64) (coreOf cx)
    else s.readStack acc.die f (acc.loc / 64) (s.ownerOf cx) (coreOf cx)
  | none =>
    if acc.die = 4 then ⟨s, s.bytes (hostKey (acc.loc / 64 * 64)) 64, false, false⟩ else s.readScratch acc.loc

/-- Two accesses to one granule, be it of a frame, of scratch or of host memory. -/
def Access.meets (a b : Access) : Bool :=
  a.frame == b.frame && decide (a.die = 4) == decide (b.die = 4) && a.loc / 64 == b.loc / 64

/-- The bytes of a posted store over those of its granule. -/
def Posted.over (p : Posted) (bs : List Byte) : List Byte :=
  (p.bytes.zipIdx).foldl (fun bs (b, j) => if hasBit p.mask j then bs.set (p.acc.loc % 64 + j) b else bs) bs
/-- The first bytes of the granule that the store writes, as a mask. -/
def Posted.granMask (p : Posted) : Nat := p.mask % 2 ^ p.bytes.length * 2 ^ (p.acc.loc % 64)

/-- A b-slot store of a core that has not reached its level. -/
def Posted.exposed (p : Posted) (core : Nat) : Bool :=
  coreOf p.cx == core && p.entry.isNone && p.hint.isNone && decide (p.stage < 2)
/-- Stores still posted whose bytes a load of a context reads (R239 to R241): its own of earlier groups, but not one held in an
own SWM copy for a load at the home; and, for a load performed at the core cache, those of the core's other contexts. -/
def State.forwarded (s : State) (cx tick : Nat) (acc : Access) : List Posted :=
  s.posted.filter fun p => p.exposed (coreOf cx) && p.acc.meets acc &&
    (if p.cx = cx then decide (p.tick < tick) && !(acc.level == 3 && p.acc.level == 2) else acc.level == 0)
def State.forward (s : State) (cx tick : Nat) (acc : Access) (bs : List Byte) : List Byte :=
  (s.forwarded cx tick acc).foldl (fun bs p => p.over bs) bs
/-- Loads and atomics of a context that have not performed. -/
def State.heldOf (s : State) (cx : Nat) : List Held := (s.core (coreOf cx)).held.filter (·.cx == cx)
/-- Stores and atomics that a context's store or atomic of number id came after: its own earlier ones, and those of others that
it has read. -/
def State.before (s : State) (cx id : Nat) : List Nat :=
  ((s.posted.filter fun q => q.cx == cx && q.entry.isNone && decide (q.id < id)).map (·.id)) ++
  ((s.heldOf cx).filter fun h => decide (h.id < id) && !(match h.op with | .load _ => true | _ => false)).map (·.id) ++ (s.ctx cx).seen
/-- Stores of other contexts that a load or atomic has read before they performed, with what came before those, and what came
before stores that have performed in its granule and has not performed itself: a later release of the reader follows them
all (R244). -/
def State.noteSeen (s : State) (cx tick : Nat) (acc : Access) : State :=
  let mask := (2 ^ acc.n - 1) * 2 ^ (acc.loc % 64)
  let ps := (s.forwarded cx tick acc).filter fun p => p.cx != cx && p.granMask &&& mask != 0
  let ids := (ps.flatMap fun p => p.id :: s.before p.cx p.id) ++ Map.get [] (s.core (coreOf cx)).marks (lineKey acc)
  if ids.isEmpty then s else s.modCtx cx fun c => { c with seen := (c.seen ++ ids).eraseDups }
/-- A store or atomic has performed while stores that came before it have not: whoever reads its granule in this core reads it
after them (R244). -/
def State.markBefore (s : State) (cx id : Nat) (acc : Access) : State :=
  let core := coreOf cx
  let live (i : Nat) : Bool := s.posted.any (·.id == i) || (s.core core).held.any (·.id == i)
  let ids := (s.before cx id).filter live
  if ids.isEmpty && (s.core core).marks.isEmpty then s
  else s.modCore core fun k =>
    let m := (k.marks.map fun e => (e.1, e.2.filter live)).filter fun e => !e.2.isEmpty
    { k with marks := Map.set [] m (lineKey acc) ((Map.get [] m (lineKey acc) ++ ids).eraseDups) }

/-- A fill of the core cache: 1,024 lines, one of a free choice goes for a new one (R11, R236; see the log). A line holds the
level's own bytes; the core's stores that are still posted lie over it. -/
def State.fillLine (s : State) (c k : Nat) (bs : List Byte) : State :=
  if (s.core c).cache.length < 1024 then s.modCore c fun x => { x with cache := Map.put x.cache k bs }
  else
    let v := Config.victim s.fresh % 1024
    { s with fresh := s.fresh + 1 }.modCore c fun x => { x with cache := Map.put (x.cache.eraseIdx v) k bs }

/-- A load's bytes: from the core cache with its fill, or from its level, with the core's own posted stores (R236). -/
def State.readAcc (s : State) (cx tick : Nat) (acc : Access) : Got :=
  let k := lineKey acc
  let c := coreOf cx
  let pick (s : State) (bs : List Byte) : Got :=
    ⟨s.noteSeen cx tick acc, ((s.forward cx tick acc bs).drop (acc.loc % 64)).take acc.n, false, false⟩
  match if acc.level = 0 then Map.get [] (s.core c).cache k else [] with
  | [] =>
    let g := s.readLevel cx acc
    if g.poison || g.dead then g else pick (if acc.level = 0 then g.s.fillLine c k g.bytes else g.s) g.bytes
  | bs => pick s bs

/-- The core cache's copy, if there is one, takes bytes of its granule under a mask of the granule (R236, R239). -/
def State.updateLine (s : State) (c : Nat) (acc : Access) (gran : List Byte) (mask : Nat) : State :=
  let k := lineKey acc
  match Map.get [] (s.core c).cache k with
  | [] => s
  | old => s.modCore c fun x => { x with cache := Map.put x.cache k (mergeBytes old gran mask) }
def State.dropCache (s : State) (c : Nat) : State := s.modCore c fun x => { x with cache := [] }

/- What later accesses wait for (R243 to R246, R315) -/
/-- A collective contribution has been absorbed into the reduction units (R246). -/
def Entry.absorbed (e : Entry) : Bool :=
  match e.cmd with
  | .coll .. => decide (1 ≤ e.done)
  | _ => false
/-- Stage 9: an access has performed at its level, a host store is visible in the system, a command is complete. A contribution
counts at stage 1 once it is absorbed. -/
def performed : Nat := 9
/-- Stage 10: the data of an acquire load or atomic has come, and its nominal latency has passed (R315). -/
def landed : Nat := 10
/-- The nominal latency of a load or atomic has not passed: by the ticks of its context, or, while its core is frozen and counts no
tick (R197), by the cycles that have passed (see the log). -/
def State.onItsWay (s : State) (id : Nat) : Bool :=
  s.ctxs.any fun e => e.2.pend.any fun p => match p.act with
    | .arrive i till => i == id && decide (e.2.tick < p.land) && ((s.core (coreOf e.1)).freeze.isEmpty || decide (s.g < till))
    | _ => false
/-- Whether an access or command, by its id, has reached a stage: a posted store stands at its own, a load or atomic has
performed, and an acquire's data has come. -/
def State.reached (s : State) (id stage : Nat) : Bool :=
  (s.posted.all fun p => p.id != id || decide (stage ≤ p.stage)) &&
  (s.cores.all fun k => !(k.2.queue.any fun e => e.id == id && !(stage == 1 && e.absorbed)) &&
    !(k.2.held.any (·.id == id)) && !(stage == landed && k.2.pending.contains id)) &&
  !(stage == landed && s.onItsWay id)
/-- Those of a list that have not been reached. -/
def State.open' (s : State) (ids : List (Nat × Nat)) : List (Nat × Nat) := ids.filter fun i => !s.reached i.1 i.2

/-- When a posted store counts as performed for an order at a scope: a host store once it has left the package, and at
system scope once a read of length zero has come back (R246). -/
def Posted.stageFor (p : Posted) (scope : Nat) : Nat := if p.acc.die = 4 && p.hint.isNone && scope < 6 then 2 else performed
/-- The effective scope of an ordering access: the narrower of its scope field and its level's reach (R236). -/
def Access.effective (a : Access) (scope : Nat) : Nat := if a.level = 2 then Nat.min scope 3 else if a.die = 4 then scope else Nat.min scope 5
/-- What a release of a context at a scope follows (R244): its stores and atomics that have not performed, its loads that
have not read, and the stores and atomics of core-mates that it has read after. -/
def State.outstanding (s : State) (cx scope : Nat) : List (Nat × Nat) :=
  ((s.posted.filter fun p => (p.cx == cx && p.entry.isNone) || (s.ctx cx).seen.contains p.id).map fun p => (p.id, p.stageFor scope)) ++
  ((s.core (coreOf cx)).held.filter fun h => h.cx == cx || (s.ctx cx).seen.contains h.id).map fun h => (h.id, performed)
/-- A wait at system scope asks for the visibility of a context's host stores, and of those of core-mates that it has read
(R244, R246): what has left the package already is told by a read to come. -/
def State.askSystem (s : State) (cx scope : Nat) : State :=
  let mine (p : Posted) : Bool := (p.cx == cx || (s.ctx cx).seen.contains p.id) && p.entry.isNone && p.hint.isNone && p.acc.die == 4
  if scope < 6 then s
  else
    let ask := s.posted.filter fun p => mine p && p.stage == 2 && !p.sys
    let s := { s with posted := s.posted.map fun p => if mine p then { p with sys := true } else p }
    ask.foldl (fun s p => s.later (.postedStorePerform p.id)) s

/-- Stores and atomics of a core to the granule of an access, wherever each performs, which come before a later store there
(R32, R240, R241, R243, R372), and loads of the core that have not read it. -/
def State.sameGranule (s : State) (cx : Nat) (acc : Access) : List (Nat × Nat) :=
  ((s.posted.filter fun p => p.hint.isNone && (p.cx == cx || (coreOf p.cx == coreOf cx && p.entry.isNone)) && p.acc.meets acc).map fun p => (p.id, if p.acc.die = 4 then 2 else performed)) ++
  ((s.core (coreOf cx)).held.filter fun h => h.acc.meets acc).map fun h => (h.id, performed)
/-- What a load follows in its granule: loads and atomics of the core that have not performed there; and, at a level
beyond the core cache, stores of other contexts of the core, which it may not see before all parties do (R241, R243,
R248), and an `inject` (R303). -/
def State.beforeLoad (s : State) (cx : Nat) (acc : Access) : List (Nat × Nat) :=
  ((s.core (coreOf cx)).held.filter fun h => h.acc.meets acc).map (fun h => (h.id, performed)) ++
  (if acc.level = 0 then []
   else (s.posted.filter fun p => p.exposed (coreOf cx) && (p.cx != cx || p.inject.isSome) && p.acc.meets acc).map fun p =>
     (p.id, if p.acc.die = 4 then 2 else performed))

/-- Cycles that a transfer to a die takes at least (R28, R31): none on the own die, and none that is stated to the host. A transfer
to a HOME_ONLY home takes the entry that names its die, though R23 uses none that names a die not LIVE (see the log). -/
def transit (e d : Nat) : Nat := if d < 4 && e ≠ d then Config.xlat e d else 0

/-- Cycles before an atomic has reached the die at which it performs (R31). A load reads at the tick of its issue (R239), wherever
its bytes lie (see the log). -/
def Held.way (h : Held) : Nat := match h.op with | .load _ => 0 | _ => transit (dieOf h.cx) h.acc.die

/-- A posted store of a context under a policy (R32): it performs later, after those of its granule and
the stores it must follow (R243 to R245). `rel` is the scope of a release. -/
def State.post (s : State) (cx : Nat) (addr : Word) (acc : Access) (pol : Nat) (bs : List Byte) (rel : Option Nat) : State :=
  let rel := rel.map acc.effective
  let s := match rel with | some sc => s.askSystem cx sc | none => s
  let needs := s.sameGranule cx acc ++ (s.ctx cx).storeHold ++ (match rel with | some sc => s.outstanding cx sc | none => [])
  let (id, s) := s.newId
  let p : Posted :=
    { id := id, cx := cx, owner := s.ownerOf cx, addr := addr, bytes := bs, mask := 2 ^ bs.length - 1, acc := acc, pol := pol,
      needs := s.open' needs, stage := 0, sys := false, units := 0, entry := none, hint := none, inject := none, tick := (s.ctx cx).tick }
  { s with posted := s.posted ++ [p] }.later (.postedStorePerform id)

/-- Bytes that start at the place of an access, as its whole granule holds them. -/
def granOf (acc : Access) (bs : List Byte) : List Byte := List.replicate (acc.loc % 64) (0 : Byte) ++ bs
def granMask (acc : Access) (mask : Nat) : Nat := mask * 2 ^ (acc.loc % 64)
/-- A store at the home of an SWM frame also reaches the own die's copy, which the context reads at P1, with the errors that it
finds there (R170, R171, R240, R395; see the log). -/
def State.ownCopy (s : State) (e : Nat) (f i : Nat) (gran : List Byte) (mask core : Nat) : State :=
  let fr := s.frame f
  if !fr.swm || homeDie fr.hbm = e then s
  else match s.tier.stack.find? fun x => keyDie x.1 == e && x.2.frame == f && x.2.idx == i with
    | none => s
    | some (k, x) => if s.badTag k x then s.tagError k x core else (s.intoGran State.retireFrame k x gran mask core false).1
/-- The bytes of a store under a mask reach their level, for an owner's tag. -/
def State.storeAcc (s : State) (t : Option Nat) (core : Nat) (acc : Access) (bs : List Byte) (mask : Nat) : Got :=
  let gran := granOf acc bs
  let m := granMask acc mask
  match acc.frame with
  | some f =>
    let fr := s.frame f
    let s := if fr.state == .resident then s.setFrame f { fr with dirty := true } else s
    let i := acc.loc / 64
    if acc.level = 2 then s.storeStack acc.die f i t core gran m
    else
      let g := if acc.level = 3 then s.storeHbm f i gran m core else s.storeStack acc.die f i t core gran m
      if g.poison || g.dead then g else { g with s := g.s.ownCopy (dieOfCore core) f i gran m core }
  | none =>
    if acc.die = 4 then ⟨s.putMasked (hostKey (acc.loc / 64 * 64)) gran m, [], false, false⟩ else s.storeScratch acc.loc gran m

/-- A combining function of `amo` in n bytes (R316). -/
def amoCombine (fn n old v : Nat) : Nat :=
  let w := 8 * n
  let so := toSigned w old
  let sv := toSigned w v
  match fn with
  | 0 => v
  | 1 => (old + v) % 2 ^ w
  | 2 => old &&& v
  | 3 => old ||| v
  | 4 => old ^^^ v
  | 5 => if sv < so then v else old
  | 6 => if so < sv then v else old
  | 7 => if v < old then v else old
  | 8 => if old < v then v else old
  | _ => (encodeNum fp32 rne ((decodeNum fp32 false old).add false (decodeNum fp32 false v))).1

/- Loads and atomics as they perform (R313, R316, R317) -/
/-- Extension of n bytes to 64 bits (R313). -/
def extendBytes (n : Nat) (sgn : Bool) (v : Nat) : Word :=
  if sgn then BitVec.ofInt 64 (toSigned (8 * n) v) else BitVec.ofNat 64 v
/-- What an atomic writes over an old value, none when it writes nothing. -/
def MemOp.combine (o : MemOp) (n old : Nat) : Option Nat :=
  match o with
  | .load _ => none
  | .amo fn v => some (amoCombine fn n old v)
  | .cas cmp new => if old = cmp then some new else none
/-- What came of an access: the value for its register, or the subcode of fault 0x0A it meets at its landing, or crews have
ended for what it found. -/
inductive Came where
  | value (v : Word)
  | poison
  | dead
  deriving DecidableEq, Repr
/-- A load or atomic performs at its level (R236, R247); a load of a frame in SCRUB reads zero (R123). One that acquires at cluster scope or wider empties the core
cache; the core cache's copy takes what a P0 access that performs as P1 read or wrote (R236). -/
def State.performOp (s : State) (h : Held) : State × Came :=
  let core := coreOf h.cx
  let done (s : State) : State := if h.acq && 2 ≤ h.scope then s.dropCache core else s
  let whole (s : State) (bs : List Byte) : State :=
    if h.acc.level = 0 then s else s.updateLine core h.acc (granOf h.acc bs) (granMask h.acc (2 ^ h.n - 1))
  match h.op with
  | .load sgn =>
    if h.acc.frame.any fun f => (s.frame f).state == .scrub then (done s, .value 0) else
    let g := s.readAcc h.cx h.tick h.acc
    if g.dead then (g.s, .dead)
    else if g.poison then (g.s, .poison)
    else (done (if h.pol = 0 then whole g.s g.bytes else g.s), .value (extendBytes h.n sgn (leAt g.bytes 0 h.n)))
  | op =>
    let g := s.readLevel h.cx h.acc
    let g := { g with s := g.s.noteSeen h.cx h.tick h.acc }
    if g.dead then (g.s, .dead)
    else if g.poison then (g.s, .poison)
    else
      let bs := (g.bytes.drop (h.acc.loc % 64)).take h.n
      let old := leAt bs 0 h.n
      match op.combine h.n old with
      | none => (done (whole g.s bs), .value (BitVec.ofNat 64 old))
      | some v =>
        let w := g.s.storeAcc (g.s.ownerOf h.cx) core h.acc (leBytes h.n v) (2 ^ h.n - 1)
        if w.dead then (w.s, .dead)
        else if w.poison then (w.s, .poison)
        else (done ((whole w.s (leBytes h.n v)).markBefore h.cx h.id h.acc), .value (BitVec.ofNat 64 old))
/-- What a load or atomic must follow before it performs (R243 to R245, R248). -/
def State.opNeeds (s : State) (h : Held) : List (Nat × Nat) :=
  s.open' <| match h.op with
    | .load _ => s.beforeLoad h.cx h.acc ++ (s.ctx h.cx).loadHold
    | _ => s.sameGranule h.cx h.acc ++ (s.ctx h.cx).loadHold
/-- What an atomic must follow besides before it writes: held stores, and, as a release, the context's earlier accesses. One
that turns out to write nothing follows none of it (R317). -/
def State.writeNeeds (s : State) (h : Held) : List (Nat × Nat) :=
  match h.op with
  | .load _ => []
  | _ => s.open' ((s.ctx h.cx).storeHold ++ if h.rel && 2 ≤ h.scope then s.outstanding h.cx (h.acc.effective h.scope) else [])
/-- Whether an access that has what it must follow behind it would write. -/
def State.opWrites (s : State) (h : Held) : Bool :=
  let old := leAt ((((s.readLevel h.cx h.acc).bytes).drop (h.acc.loc % 64)).take h.n) 0 h.n
  (h.op.combine h.n old).isSome
/-- An access is ready to perform: it has reached the die, and nothing it must follow is open. -/
def State.opReady (s : State) (h : Held) (writes : List (Nat × Nat)) : Bool :=
  decide (h.start ≤ s.g) && (s.open' h.needs).isEmpty && ((s.open' writes).isEmpty || !s.opWrites h)

end Sys2Proof.Machine
end

