-- ==== Sys2Proof/WellFormed.lean ====
section
/-! DEFINITION. Which instructions are well formed: the field rules of R270 to R282 and, for Binnacle words, R85 to
R91. An instruction that breaks them is an illegal encoding, fault 0x01 with subcode 2, and has no encoding. -/

namespace Sys2Proof

/-- The direction of a tile operand (R272). -/
inductive Dir where
  | whole | row | col | diag
  deriving DecidableEq, Repr

def TileOp.tile (t : TileOp) : Nat := (t.extractLsb' 3 4).toNat
def TileOp.dir (t : TileOp) : Dir :=
  if t.getLsbD 2 then (if t.getLsbD 1 then .diag else .col) else (if t.getLsbD 1 then .row else .whole)
/-- The index source: k1 when set (R272). -/
def TileOp.src (t : TileOp) : Bool := t.getLsbD 0
/-- A whole-tile operand has index source 0 (R272). -/
def TileOp.ok (t : TileOp) : Bool := !(t.dir == .whole && t.src)

/-- The scalar register a scalar operand b names, and its zero bit (R273). -/
def TileOp.sreg (t : TileOp) : SReg := t.extractLsb' 1 6

namespace Shape

/-- The combinations of R274. -/
def elementwise (d a b : TileOp) (bs : BitVec 1) : Bool :=
  d.ok && a.ok && d.dir == a.dir && (if bs = 1 then !b.getLsbD 0 else b.ok && b.dir == d.dir)
def unary (d a : TileOp) : Bool := d.ok && a.ok && d.dir == a.dir
def redX (d a : TileOp) : Bool :=
  d.ok && a.ok && ((a.dir == .whole && d.dir == .col) || (a.dir == .row && d.dir == .row))
def redY (d a : TileOp) : Bool :=
  d.ok && a.ok && ((a.dir == .whole && d.dir == .row) || (a.dir == .col && d.dir == .col))
def rowLike (d a : TileOp) : Bool := unary d a && (d.dir == .whole || d.dir == .row)
def colLike (d a : TileOp) : Bool := unary d a && (d.dir == .whole || d.dir == .col)
def mem (t : TileOp) : Bool := t.ok && (t.dir == .whole || t.dir == .row)
def xwhole (d a : TileOp) : Bool := d.ok && a.ok && d.dir == .whole && a.dir == .whole

end Shape

/-- One operand of the T extension (R273): an override needs a used operand that is not whole; without one the index
is zero. -/
def TExt.operandOk (ov : Bool) (idx : BitVec 6) (overridable : Bool) : Bool :=
  if ov then overridable else idx == 0

/-- The rules of R273: `auxOk` is the aux bits the op defines; `useA`, `useB` say whether the op has those operands. -/
def TExt.ok (x : TExt) (d : TileOp) (a b : Option TileOp) (auxMask : BitVec 11) : Bool :=
  TExt.operandOk (x.ov.getLsbD 0) x.id (d.dir != .whole) &&
  TExt.operandOk (x.ov.getLsbD 1) x.ia (match a with | some a => a.dir != .whole | none => false) &&
  TExt.operandOk (x.ov.getLsbD 2) x.ib (match b with | some b => b.dir != .whole | none => false) &&
  x.aux &&& ~~~ auxMask == 0

/-- Operand b of the extension's rules: none when it is scalar (R273). -/
def TileOp.tileB (b : TileOp) (bs : BitVec 1) : Option TileOp := if bs = 1 then none else some b

def optTExtOk (x : Option TExt) (d : TileOp) (a b : Option TileOp) (auxMask : BitVec 11) : Bool :=
  match x with
  | none => true
  | some x => x.ok d a b auxMask

namespace Wf

def binary (d a b : TileOp) (bs : BitVec 1) (x : Option TExt) : Bool :=
  Shape.elementwise d a b bs && optTExtOk x d (some a) (b.tileB bs) 0
def unary (d a : TileOp) (x : Option TExt) : Bool := Shape.unary d a && optTExtOk x d (some a) none 0
def redX (d a : TileOp) (x : Option TExt) : Bool := Shape.redX d a && optTExtOk x d (some a) none 0
def redY (d a : TileOp) (x : Option TExt) : Bool := Shape.redY d a && optTExtOk x d (some a) none 0
def rowUnary (d a : TileOp) (x : Option TExt) (auxMask : BitVec 11) : Bool :=
  Shape.rowLike d a && optTExtOk x d (some a) none auxMask
def rowBinary (d a b : TileOp) (x : Option TExt) : Bool :=
  Shape.rowLike d a && Shape.rowLike d b && optTExtOk x d (some a) (some b) 0
def colUnary (d a : TileOp) (x : TExt) (auxMask : BitVec 11) : Bool :=
  Shape.colLike d a && x.ok d (some a) none auxMask
/-- A signed-immediate op with an extension has imm10 zero (R269). -/
def si (imm : BitVec 10) (x : Option W32) : Bool := x.isNone || imm == 0
/-- A mode-0 tile memory op with an extension has [6:0] zero (R275). -/
def tm (t : TileOp) (off : BitVec 7) (x : Option W32) : Bool := Shape.mem t && (x.isNone || off == 0)
/-- Scope 7 is reserved (R234, R270). -/
def scope (sc : BitVec 3) : Bool := sc != 7
def ld (width : BitVec 2) (sgn : BitVec 1) (ord : BitVec 2) (sc : BitVec 3) : Bool :=
  scope sc && !ord.getLsbD 1 && !(sgn == 1 && width == 3)
def st (ord : BitVec 2) (sc : BitVec 3) : Bool := scope sc && !ord.getLsbD 0
def amo (fn : BitVec 4) (width : BitVec 2) (sc : BitVec 3) : Bool :=
  scope sc && width.getLsbD 1 && decide (fn.toNat ≤ 9) && (fn != 9 || width == 2)

/-- Sensor ids of R87: the index lies in its class's range. -/
def sensorId (id : BitVec 19) : Bool :=
  let c := (id.extractLsb' 16 3).toNat
  let i := (id.extractLsb' 0 16).toNat
  match c with
  | 0 => decide (i < 384) | 1 => decide (i < 256) | 2 => decide (i < 16) | 3 => decide (i < 24)
  | 4 => decide (i < 24) | 5 => decide (i < 96) | 6 => decide (i < 96) | _ => decide (i < 2)
/-- Hint selects: word in [2:0], partition in [7:3] of a system law, the rest zero (R88). -/
def hintSel (sel : BitVec 19) : Bool := sel.extractLsb' 8 11 == 0
/-- Actuator ids of R89. -/
def actuatorId (id : BitVec 19) : Bool :=
  let c := (id.extractLsb' 16 3).toNat
  let i := (id.extractLsb' 0 16).toNat
  match c with
  | 0 | 1 | 3 | 4 => decide (i < 96) | 2 => decide (i < 24) | _ => false
/-- Signal selects: [18:14] zero (R91). -/
def signalSel (sel : BitVec 19) : Bool := sel.extractLsb' 14 5 == 0

end Wf

/-- Well-formedness of every instruction. The events of the package have no encoding; their values are checked by
their own rules. -/
def Instr.wf : Instr → Bool
  | .loop _ lv _ len => decide (lv.toNat ≤ 5) && len != 0
  | .loopp _ lv _ len stages => decide (lv.toNat ≤ 5) && len != 0 && stages != 0
  | .inject _ _ kind => decide (kind.toNat ≤ 4)
  | .addi _ _ _ _ imm x | .andi _ _ _ _ imm x | .ori _ _ _ _ imm x | .movhi _ _ _ _ imm x => Wf.si imm x
  | .movi _ _ _ imm x => Wf.si imm x
  | .cmp _ _ _ _ _ cond => decide (cond.toNat ≤ 11)
  | .cmpi _ _ _ _ imm cond x => decide (cond.toNat ≤ 11) && (x.isNone || imm == 0)
  | .fcvt _ _ _ _ kind => decide (kind.toNat ≤ 7)
  | .fcmp _ _ _ _ _ cond => decide (cond.toNat ≤ 7)
  | .ld _ _ _ width sgn _ ord sc _ => Wf.ld width sgn ord sc
  | .st _ _ _ _ _ ord sc _ => Wf.st ord sc
  | .amo _ _ _ _ fn width _ _ sc => Wf.amo fn width sc
  | .cas _ _ _ _ width _ _ sc => Wf.scope sc && width.getLsbD 1
  | .vadd _ _ d a b bs x | .vsub _ _ d a b bs x | .vmul _ _ d a b bs x | .vfma _ _ d a b bs x
  | .vmax _ _ d a b bs x | .vmin _ _ d a b bs x | .vand _ _ d a b bs x | .vor _ _ d a b bs x
  | .vxor _ _ d a b bs x | .vshl _ _ d a b bs x | .vshr _ _ d a b bs x | .vsar _ _ d a b bs x
  | .vsel _ _ d a b bs x => Wf.binary d a b bs x
  | .phMul _ d a b bs x | .phDiv _ d a b bs x | .phPow _ d a b bs x | .phCmp _ d a b bs x => Wf.binary d a b bs x
  | .vabs _ _ d a x | .vneg _ _ d a x | .vmov _ _ d a x => Wf.unary d a x
  | .vexp2 _ d a x | .vlog2 _ d a x | .vrcp _ d a x | .vrsqrt _ d a x
  | .phCvt _ d a x | .phCos _ d a x | .phSin _ d a x => Wf.unary d a x
  | .vcmp _ _ d a b bs x =>
    Shape.elementwise d a b bs && x.ok d (some a) (b.tileB bs) 0xF && decide ((x.aux.extractLsb' 0 4).toNat ≤ 11)
  | .vcvt _ _ d a x => Shape.unary d a && x.ok d (some a) none 0xF && decide ((x.aux.extractLsb' 0 4).toNat ≤ 6)
  | .vbcy _ _ d a x => Wf.colUnary d a x 0xF
  | .vbcx _ _ d a x => Wf.rowUnary d a (some x) 0x3F
  | .vrolx _ _ d a x => Wf.rowUnary d a (some x) 0x3F
  | .vroly _ _ d a x => Wf.colUnary d a x 0xF
  | .vsumx _ _ d a x | .vmaxx _ _ d a x | .vargx _ _ d a x => Wf.redX d a x
  | .phSumx _ d a x => Wf.redX d a x
  | .vsumy _ _ d a x | .vmaxy _ _ d a x => Wf.redY d a x
  | .phSumy _ d a x => Wf.redY d a x
  | .vscanx _ _ d a x => Wf.rowUnary d a x 1
  | .vld _ _ t _ off x | .vst _ _ t _ off x | .vqst _ _ t _ off x | .vdql _ _ t _ off x => Wf.tm t off x
  | .vldT _ _ t _ _ _ | .vdqlT _ _ t _ _ _ => Shape.mem t
  | .viota _ _ d x => d.ok && optTExtOk x d none none 0
  | .vperm _ d a b x | .phRot _ d a b x => Wf.rowBinary d a b x
  | .phFrom _ d a x => Wf.rowUnary d a x 0
  | .xblk _ d a w | .xzip _ d a w | .xunzip _ d a w | .xcol _ d a w => Shape.xwhole d a && w != 3
  | .mcall _ r _ => decide (6 ≤ r.toNat)
  | .msnap _ t _ _ => Shape.mem t
  | .fence _ _ sc | .drain _ sc => Wf.scope sc
  | .mig _ _ _ n _ => n != 0
  | .coll _ fn _ _ => decide (fn.toNat ≤ 5)
  | .pref _ lvl _ _ => decide (lvl.toNat ≤ 1)
  | .sen _ id => Wf.sensorId id
  | .hnt _ hs => Wf.hintSel hs
  | .clp _ _ t => t != 15
  | .ask _ id => Wf.actuatorId id
  | .sig _ ss => Wf.signalSel ss
  | .br .. | .call .. | .jmp .. | .ret .. | .brstage .. | .wait .. | .tba .. | .tbw .. | .yield .. | .fmt ..
  | .fmtImm .. | .fmtr .. | .rsys .. | .wsys .. | .trap .. | .tret .. | .retire .. | .qent .. | .realign ..
  | .tick .. | .time .. | .hint .. | .evt .. => true
  | .add .. | .sub .. | .mul .. | .mulh .. | .mulhu .. | .div .. | .divu .. | .rem .. | .remu .. | .and .. | .or ..
  | .xor .. | .andn .. | .shl .. | .shr .. | .sar .. | .min .. | .max .. | .minu .. | .maxu .. | .clz .. | .popc ..
  | .ext .. | .lea .. | .sel .. | .shli .. | .shri .. | .sari .. | .pset .. | .fadd .. | .fmul .. | .ffma .. => true
  | .wld .. | .mma .. | .rot .. | .drn .. | .smo .. | .zro .. | .mpset .. | .mpget .. => true
  | .bld .. | .bst .. | .bmc .. | .larm .. | .larmImm .. | .fsig .. | .wbr .. | .invr .. | .tok .. | .acct .. => true
  | .prm .. | .ldi .. | .ldh .. | .binAdd .. | .binSub .. | .binMul .. | .mli .. | .binShr .. | .binMin ..
  | .binMax .. | .binAbs .. | .cgt .. | .csel .. | .bend => true
  | .coldReset | .warmReset | .bootStageComplete .. | .configRequest .. | .thermalTrip .. | .coreFailure ..
  | .spareCoreRemap .. | .sliceCopyDone .. | .dieRetirement .. | .dieRetirementDone .. | .registerWrite ..
  | .seqRangeWrite .. | .tenantMapWrite .. | .vfMemoryRequest .. | .atsCompletion .. | .prgResponse ..
  | .atsInvalidation .. | .invalidationCompletion .. | .featCommit .. | .fwGo .. | .fwRaiseMin .. | .fwVerifyDone => true
  | .getVersion .. | .getCapabilities .. | .negotiateAlgorithms .. | .getDigests .. | .getCertificate ..
  | .challenge .. | .getMeasurements .. | .keyExchange .. | .finish .. | .heartbeat .. | .keyUpdate ..
  | .endSession .. | .ideKm .. | .lockInterface .. | .startInterface .. | .stopInterface .. | .tdispError ..
  | .hostRecordWrite .. | .hostDiscardRead .. | .peerRequest .. | .laneErrorThreshold .. | .portRetrainDone .. => true
  | .lawLoad .. | .lawUnload .. | .lawParamCommit .. | .frameSnapshot | .lawSlot .. | .composition | .applyFrame
  | .dieDroop .. | .droopClear .. | .sliceGroupPowerDown .. | .sliceGroupReady .. | .partWrite ..
  | .partitionReset .. | .acctAdd .. | .schedPass | .gateWaitExpiry .. | .planWrite .. | .mayflyPost ..
  | .sliceEnd .. | .drainDeadlineExpiry .. | .crewSaveDone .. | .switchClearingDone .. | .scarabSwapDone .. => true
  | .frameFetchDone .. | .frameEvictDone .. | .frameScrubDone .. | .fmapAssign .. | .fmapRelease .. | .fmapSwmOn ..
  | .fmapSwmOff .. | .fmapPeek .. | .fmapCommandDone | .stackWaysWrite .. | .wayMaskApplied .. | .stackSplitWrite ..
  | .stackWayclr .. | .parkResume .. | .resultLand .. | .freezeEnd .. | .loadDataReturn .. | .drainComplete ..
  | .turnLimitExpiry .. | .unblock .. | .watchdogExpiry .. | .asyncEventEntry .. | .barrierRelease ..
  | .realignResume .. | .landingArrival .. | .engineCommandComplete .. | .postedStorePerform .. | .fsigToken ..
  | .collResult .. | .memberRetireComplete .. | .crewEnd .. | .shadowBankReady .. | .illegalEncoding .. => true

end Sys2Proof
end

