-- ==== Sys2Proof/Decode.lean ====
section
/-! DEFINITION. The decoder of op words and Binnacle words, total on any bits and rejecting by the subcode of fault
0x01 (R204, R260, R267, R268, R270), and after it the encoder, from the same tables (R268 to R282, R84, R85). -/

namespace Sys2Proof

/- Fields of an op word (R268, R269). -/
def opcode (w : W32) : BitVec 6 := w.extractLsb' 26 6
def fG (w : W32) : Guard := w.extractLsb' 22 4
def fD (w : W32) : SReg := w.extractLsb' 16 6
def fJ (w : W32) : SReg := w.extractLsb' 10 6
def fK (w : W32) : SReg := w.extractLsb' 4 6
def fFn (w : W32) : BitVec 4 := w.extractLsb' 0 4
def fImm10 (w : W32) : BitVec 10 := w.extractLsb' 0 10
def fOff22 (w : W32) : BitVec 22 := w.extractLsb' 0 22
/- Format P -/
def fPd (w : W32) : BitVec 4 := w.extractLsb' 18 4
def fPj (w : W32) : SReg := w.extractLsb' 12 6
def fPk (w : W32) : SReg := w.extractLsb' 6 6
def fCond (w : W32) : BitVec 4 := w.extractLsb' 2 4
/- Formats T, TM, X, MS -/
def fTd (w : W32) : TileOp := w.extractLsb' 15 7
def fTa (w : W32) : TileOp := w.extractLsb' 8 7
def fTb (w : W32) : TileOp := w.extractLsb' 1 7
def fBs (w : W32) : BitVec 1 := w.extractLsb' 0 1
def fTj (w : W32) : SReg := w.extractLsb' 9 6
def fMode (w : W32) : BitVec 2 := w.extractLsb' 7 2
def fOff7 (w : W32) : BitVec 7 := w.extractLsb' 0 7
/- Format E -/
def fEj (w : W32) : SReg := w.extractLsb' 16 6
def fEk (w : W32) : SReg := w.extractLsb' 10 6
/- Format L, and MP -/
def fLv (w : W32) : BitVec 3 := w.extractLsb' 19 3
def fCr (w : W32) : SReg := w.extractLsb' 13 6
def fLen (w : W32) : BitVec 13 := w.extractLsb' 0 13

def TExt.pack (x : TExt) : W32 := x.aux ++ x.ov ++ x.ib ++ x.ia ++ x.id
def TExt.unpack (w : W32) : TExt :=
  ⟨w.extractLsb' 21 11, w.extractLsb' 18 3, w.extractLsb' 12 6, w.extractLsb' 6 6, w.extractLsb' 0 6⟩

/-- Reserved bits and values raise subcode 2 (R270). -/
def chk (zero : Bool) (i : Instr) : Except Nat Instr := if zero && i.wf then .ok i else .error 2
/-- An extension the op forbids raises subcode 7 (R260). -/
def forbid (x : Option W32) (k : Except Nat Instr) : Except Nat Instr := if x.isSome then .error 7 else k
/-- A mandatory extension that is missing raises subcode 7 (R260). -/
def need (x : Option W32) (k : W32 → Except Nat Instr) : Except Nat Instr :=
  match x with
  | none => .error 7
  | some e => k e

/- One decoder for each body format (R269): `mk` is the constructor; unused fields must be zero (R270). -/
def decB (mk : Guard → BitVec 22 → Instr) (w : W32) (x : Option W32) := forbid x (chk true (mk (fG w) (fOff22 w)))
def decCJI (mk : Guard → SReg → BitVec 10 → Instr) (w : W32) (x : Option W32) :=
  forbid x (chk (fD w == 0) (mk (fG w) (fJ w) (fImm10 w)))
def decC0 (mk : Guard → Instr) (w : W32) (x : Option W32) := forbid x (chk (fOff22 w == 0) (mk (fG w)))
def decL (mk : Guard → BitVec 3 → SReg → BitVec 13 → Instr) (w : W32) (x : Option W32) :=
  forbid x (chk true (mk (fG w) (fLv w) (fCr w) (fLen w)))
def decLP (mk : Guard → BitVec 3 → SReg → BitVec 13 → BitVec 4 → Instr) (w : W32) (x : Option W32) :=
  need x fun e => chk (e.extractLsb' 4 28 == 0) (mk (fG w) (fLv w) (fCr w) (fLen w) (e.extractLsb' 0 4))
def decCW (mk : Guard → SReg → BitVec 1 → Instr) (w : W32) (x : Option W32) :=
  forbid x (chk (fD w == 0 && w.extractLsb' 1 9 == 0) (mk (fG w) (fJ w) (w.extractLsb' 0 1)))
def decCT (mk : Guard → BitVec 3 → Instr) (w : W32) (x : Option W32) :=
  forbid x (chk (w.extractLsb' 3 19 == 0) (mk (fG w) (w.extractLsb' 0 3)))
def decFMT (w : W32) (x : Option W32) : Except Nat Instr :=
  match x with
  | none => chk (fD w == 0 && fImm10 w == 0) (.fmt (fG w) (fJ w))
  | some e => chk (fOff22 w == 0) (.fmtImm (fG w) e)
def decCD (mk : Guard → SReg → Instr) (w : W32) (x : Option W32) :=
  forbid x (chk (w.extractLsb' 0 16 == 0) (mk (fG w) (fD w)))
def decCDI (mk : Guard → SReg → BitVec 10 → Instr) (w : W32) (x : Option W32) :=
  forbid x (chk (fJ w == 0) (mk (fG w) (fD w) (fImm10 w)))
def decCTR (mk : Guard → BitVec 8 → Instr) (w : W32) (x : Option W32) :=
  forbid x (chk (w.extractLsb' 8 14 == 0) (mk (fG w) (w.extractLsb' 0 8)))
def decCDJI (mk : Guard → SReg → SReg → BitVec 10 → Instr) (w : W32) (x : Option W32) :=
  forbid x (chk true (mk (fG w) (fD w) (fJ w) (fImm10 w)))
def decCH (mk : Guard → SReg → BitVec 3 → Instr) (w : W32) (x : Option W32) :=
  forbid x (chk (fD w == 0 && w.extractLsb' 3 7 == 0) (mk (fG w) (fJ w) (w.extractLsb' 0 3)))
def decS3 (mk : Guard → SReg → SReg → SReg → Instr) (w : W32) (x : Option W32) :=
  forbid x (chk (fFn w == 0) (mk (fG w) (fD w) (fJ w) (fK w)))
def decS3U (mk : Guard → SReg → SReg → Instr) (w : W32) (x : Option W32) :=
  forbid x (chk (fK w == 0 && fFn w == 0) (mk (fG w) (fD w) (fJ w)))
def decS3X (mk : Guard → SReg → SReg → SReg → BitVec 1 → Instr) (w : W32) (x : Option W32) :=
  forbid x (chk (w.extractLsb' 1 3 == 0) (mk (fG w) (fD w) (fJ w) (fK w) (w.extractLsb' 0 1)))
def decS3F (mk : Guard → SReg → SReg → SReg → BitVec 4 → Instr) (w : W32) (x : Option W32) :=
  forbid x (chk true (mk (fG w) (fD w) (fJ w) (fK w) (fFn w)))
def decS3K (mk : Guard → SReg → SReg → BitVec 4 → Instr) (w : W32) (x : Option W32) :=
  forbid x (chk (fK w == 0) (mk (fG w) (fD w) (fJ w) (fFn w)))
def decSI (mk : Guard → SReg → SReg → BitVec 10 → Option W32 → Instr) (w : W32) (x : Option W32) :=
  chk true (mk (fG w) (fD w) (fJ w) (fImm10 w) x)
def decSH (mk : Guard → SReg → SReg → BitVec 6 → Instr) (w : W32) (x : Option W32) :=
  forbid x (chk (w.extractLsb' 6 4 == 0) (mk (fG w) (fD w) (fJ w) (w.extractLsb' 0 6)))
def decMOVI (mk : Guard → SReg → BitVec 10 → Option W32 → Instr) (w : W32) (x : Option W32) :=
  chk (fJ w == 0) (mk (fG w) (fD w) (fImm10 w) x)
def decPC (mk : Guard → BitVec 4 → SReg → SReg → BitVec 4 → Instr) (w : W32) (x : Option W32) :=
  forbid x (chk (w.extractLsb' 0 2 == 0) (mk (fG w) (fPd w) (fPj w) (fPk w) (fCond w)))
def decPI (mk : Guard → BitVec 4 → SReg → BitVec 6 → BitVec 4 → Option W32 → Instr) (w : W32) (x : Option W32) :=
  chk (w.extractLsb' 0 2 == 0) (mk (fG w) (fPd w) (fPj w) (fPk w) (fCond w) x)
def decPS (mk : Guard → BitVec 4 → BitVec 4 → BitVec 4 → BitVec 4 → Instr) (w : W32) (x : Option W32) :=
  forbid x (chk (w.extractLsb' 0 2 == 0 && w.extractLsb' 16 2 == 0 && w.extractLsb' 10 2 == 0)
    (mk (fG w) (fPd w) (w.extractLsb' 12 4) (w.extractLsb' 6 4) (fCond w)))
def decLD (mk : Guard → SReg → SReg → BitVec 2 → BitVec 1 → BitVec 2 → BitVec 2 → BitVec 3 → Option W32 → Instr)
    (w : W32) (x : Option W32) :=
  chk true (mk (fG w) (fD w) (fJ w) (w.extractLsb' 8 2) (w.extractLsb' 7 1) (w.extractLsb' 5 2) (w.extractLsb' 3 2)
    (w.extractLsb' 0 3) x)
def decST (mk : Guard → SReg → SReg → BitVec 2 → BitVec 2 → BitVec 2 → BitVec 3 → Option W32 → Instr)
    (w : W32) (x : Option W32) :=
  chk (w.extractLsb' 7 1 == 0) (mk (fG w) (fD w) (fJ w) (w.extractLsb' 8 2) (w.extractLsb' 5 2) (w.extractLsb' 3 2)
    (w.extractLsb' 0 3) x)
def decAMO (mk : Guard → SReg → SReg → SReg → BitVec 4 → BitVec 2 → BitVec 2 → BitVec 2 → BitVec 3 → Instr)
    (w : W32) (x : Option W32) :=
  need x fun e => chk (e.extractLsb' 9 23 == 0) (mk (fG w) (fD w) (fJ w) (fK w) (fFn w) (e.extractLsb' 7 2)
    (e.extractLsb' 5 2) (e.extractLsb' 3 2) (e.extractLsb' 0 3))
def decCAS (mk : Guard → SReg → SReg → SReg → BitVec 2 → BitVec 2 → BitVec 2 → BitVec 3 → Instr)
    (w : W32) (x : Option W32) :=
  need x fun e => chk (fFn w == 0 && e.extractLsb' 9 23 == 0) (mk (fG w) (fD w) (fJ w) (fK w) (e.extractLsb' 7 2)
    (e.extractLsb' 5 2) (e.extractLsb' 3 2) (e.extractLsb' 0 3))
def decT (mk : Guard → TileOp → TileOp → TileOp → BitVec 1 → Option TExt → Instr) (w : W32) (x : Option W32) :=
  chk true (mk (fG w) (fTd w) (fTa w) (fTb w) (fBs w) (x.map TExt.unpack))
def decTR (mk : Guard → TileOp → TileOp → TileOp → BitVec 1 → TExt → Instr) (w : W32) (x : Option W32) :=
  need x fun e => chk true (mk (fG w) (fTd w) (fTa w) (fTb w) (fBs w) (TExt.unpack e))
def decTU (mk : Guard → TileOp → TileOp → Option TExt → Instr) (w : W32) (x : Option W32) :=
  chk (w.extractLsb' 0 8 == 0) (mk (fG w) (fTd w) (fTa w) (x.map TExt.unpack))
def decTUR (mk : Guard → TileOp → TileOp → TExt → Instr) (w : W32) (x : Option W32) :=
  need x fun e => chk (w.extractLsb' 0 8 == 0) (mk (fG w) (fTd w) (fTa w) (TExt.unpack e))
def decTP (mk : Guard → TileOp → TileOp → TileOp → Option TExt → Instr) (w : W32) (x : Option W32) :=
  chk (fBs w == 0) (mk (fG w) (fTd w) (fTa w) (fTb w) (x.map TExt.unpack))
def decTI (mk : Guard → TileOp → Option TExt → Instr) (w : W32) (x : Option W32) :=
  chk (w.extractLsb' 0 15 == 0) (mk (fG w) (fTd w) (x.map TExt.unpack))
/-- `vst` and `vqst`: mode 0 only; mode 1, whose extension is mandatory, is reserved (R275). -/
def decTM (mk : Guard → TileOp → SReg → BitVec 7 → Option W32 → Instr) (w : W32) (x : Option W32) : Except Nat Instr :=
  if fMode w == 1 then need x fun _ => .error 2
  else chk (fMode w == 0) (mk (fG w) (fTd w) (fTj w) (fOff7 w) x)
/-- `vld` and `vdql`: mode 0, or mode 1 with the expected tag in a mandatory extension (R275). -/
def decTMT (mk : Guard → TileOp → SReg → BitVec 7 → Option W32 → Instr)
    (mkT : Guard → TileOp → SReg → BitVec 7 → BitVec 16 → Instr) (w : W32) (x : Option W32) : Except Nat Instr :=
  if fMode w == 1 then
    need x fun e => chk (e.extractLsb' 16 16 == 0) (mkT (fG w) (fTd w) (fTj w) (fOff7 w) (e.extractLsb' 0 16))
  else chk (fMode w == 0) (mk (fG w) (fTd w) (fTj w) (fOff7 w) x)
def decX (mk : Guard → TileOp → TileOp → BitVec 2 → Instr) (w : W32) (x : Option W32) :=
  forbid x (chk (w.extractLsb' 2 6 == 0) (mk (fG w) (fTd w) (fTa w) (w.extractLsb' 0 2)))
def decEJK (mk : Guard → SReg → SReg → Instr) (w : W32) (x : Option W32) :=
  forbid x (chk (fImm10 w == 0) (mk (fG w) (fEj w) (fEk w)))
def decLARM (w : W32) (x : Option W32) : Except Nat Instr :=
  match x with
  | none => chk (fImm10 w == 0) (.larm (fG w) (fEj w) (fEk w))
  | some e => chk (fImm10 w == 0 && fEk w == 0) (.larmImm (fG w) (fEj w) e)
def decEF (mk : Guard → BitVec 2 → BitVec 3 → Instr) (w : W32) (x : Option W32) :=
  forbid x (chk (w.extractLsb' 5 17 == 0) (mk (fG w) (w.extractLsb' 3 2) (w.extractLsb' 0 3)))
def decED (mk : Guard → BitVec 3 → Instr) (w : W32) (x : Option W32) :=
  forbid x (chk (w.extractLsb' 3 19 == 0) (mk (fG w) (w.extractLsb' 0 3)))
def decEFS (mk : Guard → BitVec 2 → SReg → SReg → Instr) (w : W32) (x : Option W32) :=
  forbid x (chk (w.extractLsb' 2 8 == 0) (mk (fG w) (w.extractLsb' 0 2) (fEj w) (fEk w)))
def decEM (mk : Guard → SReg → SReg → BitVec 10 → W32 → Instr) (w : W32) (x : Option W32) :=
  need x fun e => chk true (mk (fG w) (fEj w) (fEk w) (fImm10 w) e)
def decEC (mk : Guard → BitVec 4 → SReg → SReg → Instr) (w : W32) (x : Option W32) :=
  forbid x (chk (w.extractLsb' 4 6 == 0) (mk (fG w) (w.extractLsb' 0 4) (fEj w) (fEk w)))
def decEP (mk : Guard → BitVec 2 → SReg → SReg → Instr) (w : W32) (x : Option W32) :=
  forbid x (chk (w.extractLsb' 2 8 == 0) (mk (fG w) (w.extractLsb' 0 2) (fEj w) (fEk w)))
def decEA (mk : Guard → SReg → Instr) (w : W32) (x : Option W32) :=
  forbid x (chk (w.extractLsb' 0 16 == 0) (mk (fG w) (fEj w)))

/-- Slot c (R276). -/
def decodeC (w : W32) (x : Option W32) : Except Nat Instr :=
  match (opcode w).toNat with
  | 1 => decB .br w x
  | 2 => decB .call w x
  | 3 => decCJI .jmp w x
  | 4 => decC0 .ret w x
  | 5 => decL .loop w x
  | 6 => decLP .loopp w x
  | 7 => decB .brstage w x
  | 8 => decCW .wait w x
  | 9 => decCT .tba w x
  | 10 => decCT .tbw w x
  | 11 => decC0 .yield w x
  | 12 => decFMT w x
  | 13 => decCD .fmtr w x
  | 14 => decCDI .rsys w x
  | 15 => decCJI .wsys w x
  | 16 => decCTR .trap w x
  | 17 => decC0 .tret w x
  | 18 => decC0 .retire w x
  | 19 => decCD .qent w x
  | 20 => decCDJI .realign w x
  | 21 => decCD .tick w x
  | 22 => decCD .time w x
  | 23 => decCH .hint w x
  | 24 => decCD .evt w x
  | 25 => decCJI .inject w x
  | _ => .error 1

/-- Slots a and b, opcodes 1 to 41 (R277). -/
def decodeAB (sl : ABSlot) (w : W32) (x : Option W32) : Except Nat Instr :=
  match (opcode w).toNat with
  | 1 => decS3 (.add sl) w x
  | 2 => decS3 (.sub sl) w x
  | 3 => decS3 (.mul sl) w x
  | 4 => decS3 (.mulh sl) w x
  | 5 => decS3 (.mulhu sl) w x
  | 6 => decS3 (.div sl) w x
  | 7 => decS3 (.divu sl) w x
  | 8 => decS3 (.rem sl) w x
  | 9 => decS3 (.remu sl) w x
  | 10 => decS3 (.and sl) w x
  | 11 => decS3 (.or sl) w x
  | 12 => decS3 (.xor sl) w x
  | 13 => decS3 (.andn sl) w x
  | 14 => decS3 (.shl sl) w x
  | 15 => decS3 (.shr sl) w x
  | 16 => decS3 (.sar sl) w x
  | 17 => decS3 (.min sl) w x
  | 18 => decS3 (.max sl) w x
  | 19 => decS3 (.minu sl) w x
  | 20 => decS3 (.maxu sl) w x
  | 21 => decS3U (.clz sl) w x
  | 22 => decS3U (.popc sl) w x
  | 23 => decS3X (.ext sl) w x
  | 24 => decS3F (.lea sl) w x
  | 25 => decS3F (.sel sl) w x
  | 26 => decSI (.addi sl) w x
  | 27 => decSI (.andi sl) w x
  | 28 => decSI (.ori sl) w x
  | 29 => decSH (.shli sl) w x
  | 30 => decSH (.shri sl) w x
  | 31 => decSH (.sari sl) w x
  | 32 => decMOVI (.movi sl) w x
  | 33 => decSI (.movhi sl) w x
  | 34 => decPC (.cmp sl) w x
  | 35 => decPI (.cmpi sl) w x
  | 36 => decPS (.pset sl) w x
  | 37 => decS3 (.fadd sl) w x
  | 38 => decS3 (.fmul sl) w x
  | 39 => decS3 (.ffma sl) w x
  | 40 => decS3K (.fcvt sl) w x
  | 41 => decPC (.fcmp sl) w x
  | _ => .error 1

/-- Slot b: its own opcodes 48 to 51, and those it shares with slot a (R277). -/
def decodeB (w : W32) (x : Option W32) : Except Nat Instr :=
  match (opcode w).toNat with
  | 48 => decLD .ld w x
  | 49 => decST .st w x
  | 50 => decAMO .amo w x
  | 51 => decCAS .cas w x
  | _ => decodeAB .b w x

/-- Slots v and w, opcodes 1 to 33 (R279). -/
def decodeVW (sl : VWSlot) (w : W32) (x : Option W32) : Except Nat Instr :=
  match (opcode w).toNat with
  | 1 => decT (.vadd sl) w x
  | 2 => decT (.vsub sl) w x
  | 3 => decT (.vmul sl) w x
  | 4 => decT (.vfma sl) w x
  | 5 => decT (.vmax sl) w x
  | 6 => decT (.vmin sl) w x
  | 7 => decTU (.vabs sl) w x
  | 8 => decTU (.vneg sl) w x
  | 9 => decT (.vand sl) w x
  | 10 => decT (.vor sl) w x
  | 11 => decT (.vxor sl) w x
  | 12 => decT (.vshl sl) w x
  | 13 => decT (.vshr sl) w x
  | 14 => decT (.vsar sl) w x
  | 15 => decTR (.vcmp sl) w x
  | 16 => decT (.vsel sl) w x
  | 17 => decTU (.vmov sl) w x
  | 18 => decTUR (.vcvt sl) w x
  | 19 => decTUR (.vbcy sl) w x
  | 20 => decTUR (.vbcx sl) w x
  | 21 => decTUR (.vrolx sl) w x
  | 22 => decTUR (.vroly sl) w x
  | 23 => decTU (.vsumx sl) w x
  | 24 => decTU (.vsumy sl) w x
  | 25 => decTU (.vmaxx sl) w x
  | 26 => decTU (.vmaxy sl) w x
  | 27 => decTU (.vargx sl) w x
  | 28 => decTU (.vscanx sl) w x
  | 29 => decTMT (.vld sl) (.vldT sl) w x
  | 30 => decTM (.vst sl) w x
  | 31 => decTM (.vqst sl) w x
  | 32 => decTMT (.vdql sl) (.vdqlT sl) w x
  | 33 => decTI (.viota sl) w x
  | _ => .error 1

/-- Slot w: its own opcodes 40 to 55, and those it shares with slot v (R279). -/
def decodeW (w : W32) (x : Option W32) : Except Nat Instr :=
  match (opcode w).toNat with
  | 40 => decTU .vexp2 w x
  | 41 => decTU .vlog2 w x
  | 42 => decTU .vrcp w x
  | 43 => decTU .vrsqrt w x
  | 44 => decTP .vperm w x
  | 45 => decT .phMul w x
  | 46 => decT .phDiv w x
  | 47 => decT .phPow w x
  | 48 => decT .phCmp w x
  | 49 => decTU .phSumx w x
  | 50 => decTU .phSumy w x
  | 51 => decTP .phRot w x
  | 52 => decTU .phFrom w x
  | 53 => decTU .phCvt w x
  | 54 => decTU .phCos w x
  | 55 => decTU .phSin w x
  | _ => decodeVW .w w x

/-- Slot x (R280). -/
def decodeX (w : W32) (x : Option W32) : Except Nat Instr :=
  match (opcode w).toNat with
  | 1 => decX .xblk w x
  | 2 => decX .xzip w x
  | 3 => decX .xunzip w x
  | 4 => decX .xcol w x
  | _ => .error 1

/-- Slot e (R282). -/
def decodeE (w : W32) (x : Option W32) : Except Nat Instr :=
  match (opcode w).toNat with
  | 1 => decEJK .bld w x
  | 2 => decEJK .bst w x
  | 3 => decEJK .bmc w x
  | 4 => decLARM w x
  | 5 => decEF .fence w x
  | 6 => decED .drain w x
  | 7 => decEFS .fsig w x
  | 8 => decEM .mig w x
  | 9 => decEJK .wbr w x
  | 10 => decEJK .invr w x
  | 11 => decEC .coll w x
  | 12 => decEJK .tok w x
  | 13 => decEP .pref w x
  | 14 => decEA .acct w x
  | _ => .error 1

/-- `mcall`: routines 0 to 5 are the standard library, 6 to 63 loaded microcode (R281, R352). -/
def decMC (w : W32) (x : Option W32) : Except Nat Instr :=
  forbid x (chk true (match (fD w).toNat with
    | 0 => .wld (fG w) (w.extractLsb' 0 16)
    | 1 => .mma (fG w) (w.extractLsb' 0 16)
    | 2 => .rot (fG w) (w.extractLsb' 0 16)
    | 3 => .drn (fG w) (w.extractLsb' 0 16)
    | 4 => .smo (fG w) (w.extractLsb' 0 16)
    | 5 => .zro (fG w) (w.extractLsb' 0 16)
    | _ => .mcall (fG w) (fD w) (w.extractLsb' 0 16)))
def decMP (mk : Guard → BitVec 3 → SReg → Instr) (w : W32) (x : Option W32) :=
  forbid x (chk (fLen w == 0) (mk (fG w) (fLv w) (fCr w)))
def decMS (mk : Guard → TileOp → SReg → BitVec 9 → Instr) (w : W32) (x : Option W32) :=
  forbid x (chk true (mk (fG w) (fTd w) (fTj w) (w.extractLsb' 0 9)))

/-- Slot m (R281). -/
def decodeM (w : W32) (x : Option W32) : Except Nat Instr :=
  match (opcode w).toNat with
  | 1 => decMC w x
  | 2 => decMP .mpset w x
  | 3 => decMP .mpget w x
  | 4 => decMS .msnap w x
  | _ => .error 1

/-- The op of a slot, 0 c to 7 e (R258), or the subcode of fault 0x01. -/
def decodeSlot (slot : Nat) (w : W32) (x : Option W32) : Except Nat Instr :=
  match slot with
  | 0 => decodeC w x
  | 1 => decodeAB .a w x
  | 2 => decodeB w x
  | 3 => decodeVW .v w x
  | 4 => decodeW w x
  | 5 => decodeX w x
  | 6 => decodeM w x
  | 7 => decodeE w x
  | _ => .error 1

/- Fields of a Binnacle word (R84). -/
def lOp (w : W32) : BitVec 5 := w.extractLsb' 27 5
def lD (w : W32) : BitVec 4 := w.extractLsb' 23 4
def lS (w : W32) : BitVec 4 := w.extractLsb' 19 4
def lImm (w : W32) : BitVec 19 := w.extractLsb' 0 19
def lT (w : W32) : BitVec 4 := w.extractLsb' 15 4
def lchk (zero : Bool) (i : Instr) : Option Instr := if zero && i.wf then some i else none
def lReg (mk : BitVec 4 → BitVec 4 → BitVec 4 → Instr) (w : W32) : Option Instr :=
  lchk (w.extractLsb' 0 15 == 0) (mk (lD w) (lS w) (lT w))

/-- A Binnacle word (R85); none when it is malformed. -/
def decodeLaw (w : W32) : Option Instr :=
  match (lOp w).toNat with
  | 1 => lchk (lS w == 0) (.sen (lD w) (lImm w))
  | 2 => lchk (lS w == 0) (.hnt (lD w) (lImm w))
  | 3 => lchk (lS w == 0 && w.extractLsb' 4 15 == 0) (.prm (lD w) (w.extractLsb' 0 4))
  | 4 => lchk (lS w == 0) (.ldi (lD w) (lImm w))
  | 5 => lchk true (.ldh (lD w) (lS w) (lImm w))
  | 6 => lReg .binAdd w
  | 7 => lReg .binSub w
  | 8 => lReg .binMul w
  | 9 => lchk true (.mli (lD w) (lS w) (lImm w))
  | 10 => lchk (w.extractLsb' 5 14 == 0) (.binShr (lD w) (lS w) (w.extractLsb' 0 5))
  | 11 => lReg .binMin w
  | 12 => lReg .binMax w
  | 13 => lReg .clp w
  | 14 => lchk (lImm w == 0) (.binAbs (lD w) (lS w))
  | 15 => lchk (lD w == 0 && w.extractLsb' 0 15 == 0) (.cgt (lS w) (lT w))
  | 16 => lReg .csel w
  | 17 => lchk (lD w == 0) (.ask (lS w) (lImm w))
  | 18 => lchk (lD w == 0) (.sig (lS w) (lImm w))
  | 19 => lchk (w.extractLsb' 0 27 == 0) .bend
  | _ => none

/-- Where an instruction stands, its word and its extension: slot 0 to 7 of a bundle, 8 for a Binnacle word. -/
structure Enc where
  slot : Nat
  word : W32
  ext  : Option W32
  deriving DecidableEq, Repr

/-- The decoder at a place. -/
def decodeEnc (e : Enc) : Option Instr :=
  if e.slot = 8 then (if e.ext.isSome then none else decodeLaw e.word)
  else (decodeSlot e.slot e.word e.ext).toOption

/- Words from their fields, the body formats of R269. -/
def wB (op : BitVec 6) (g : Guard) (off : BitVec 22) : W32 := op ++ g ++ off
def wC (op : BitVec 6) (g : Guard) (d j : SReg) (imm : BitVec 10) : W32 := op ++ g ++ d ++ j ++ imm
def wL (op : BitVec 6) (g : Guard) (lv : BitVec 3) (cr : SReg) (len : BitVec 13) : W32 := op ++ g ++ lv ++ cr ++ len
def wS3 (op : BitVec 6) (g : Guard) (d j k : SReg) (fn : BitVec 4) : W32 := op ++ g ++ d ++ j ++ k ++ fn
def wP (op : BitVec 6) (g : Guard) (pd : BitVec 4) (j k : SReg) (cond : BitVec 4) : W32 :=
  op ++ g ++ pd ++ j ++ k ++ cond ++ (0 : BitVec 2)
def wSM (op : BitVec 6) (g : Guard) (d j : SReg) (width : BitVec 2) (sgn : BitVec 1) (pol ord : BitVec 2)
    (sc : BitVec 3) : W32 := op ++ g ++ d ++ j ++ width ++ sgn ++ pol ++ ord ++ sc
def wSA (width pol ord : BitVec 2) (sc : BitVec 3) : W32 := (0 : BitVec 23) ++ width ++ pol ++ ord ++ sc
def wT (op : BitVec 6) (g : Guard) (d a b : TileOp) (bs : BitVec 1) : W32 := op ++ g ++ d ++ a ++ b ++ bs
def wTM (op : BitVec 6) (g : Guard) (t : TileOp) (j : SReg) (mode : BitVec 2) (off : BitVec 7) : W32 :=
  op ++ g ++ t ++ j ++ mode ++ off
def wX (op : BitVec 6) (g : Guard) (d a : TileOp) (fn : BitVec 8) : W32 := op ++ g ++ d ++ a ++ fn
def wMC (op : BitVec 6) (g : Guard) (r : BitVec 6) (imm : BitVec 16) : W32 := op ++ g ++ r ++ imm
def wMP (op : BitVec 6) (g : Guard) (n : BitVec 3) (r : SReg) : W32 := op ++ g ++ n ++ r ++ (0 : BitVec 13)
def wMS (op : BitVec 6) (g : Guard) (t : TileOp) (r : SReg) (h : BitVec 9) : W32 := op ++ g ++ t ++ r ++ h
def wE (op : BitVec 6) (g : Guard) (j k : SReg) (fn : BitVec 10) : W32 := op ++ g ++ j ++ k ++ fn
def wLaw (op : BitVec 5) (d s : BitVec 4) (imm : BitVec 19) : W32 := op ++ d ++ s ++ imm

def ABSlot.slot : ABSlot → Nat
  | .a => 1
  | .b => 2
def VWSlot.slot : VWSlot → Nat
  | .v => 3
  | .w => 4

/-- The encoder: slot, op word and extension of an instruction that has one; events have none. -/
def encode : Instr → Option Enc
  | .br g off => some ⟨0, wB 1 g off, none⟩
  | .call g off => some ⟨0, wB 2 g off, none⟩
  | .jmp g j imm => some ⟨0, wC 3 g 0 j imm, none⟩
  | .ret g => some ⟨0, wC 4 g 0 0 0, none⟩
  | .loop g lv cr len => some ⟨0, wL 5 g lv cr len, none⟩
  | .loopp g lv cr len stages => some ⟨0, wL 6 g lv cr len, some ((0 : BitVec 28) ++ stages)⟩
  | .brstage g off => some ⟨0, wB 7 g off, none⟩
  | .wait g j ph => some ⟨0, wC 8 g 0 j ((0 : BitVec 9) ++ ph), none⟩
  | .tba g tag => some ⟨0, wC 9 g 0 0 ((0 : BitVec 7) ++ tag), none⟩
  | .tbw g tag => some ⟨0, wC 10 g 0 0 ((0 : BitVec 7) ++ tag), none⟩
  | .yield g => some ⟨0, wC 11 g 0 0 0, none⟩
  | .fmt g j => some ⟨0, wC 12 g 0 j 0, none⟩
  | .fmtImm g val => some ⟨0, wC 12 g 0 0 0, some val⟩
  | .fmtr g d => some ⟨0, wC 13 g d 0 0, none⟩
  | .rsys g d num => some ⟨0, wC 14 g d 0 num, none⟩
  | .wsys g j imm => some ⟨0, wC 15 g 0 j imm, none⟩
  | .trap g code => some ⟨0, wC 16 g 0 0 ((0 : BitVec 2) ++ code), none⟩
  | .tret g => some ⟨0, wC 17 g 0 0 0, none⟩
  | .retire g => some ⟨0, wC 18 g 0 0 0, none⟩
  | .qent g d => some ⟨0, wC 19 g d 0 0, none⟩
  | .realign g d j imm => some ⟨0, wC 20 g d j imm, none⟩
  | .tick g d => some ⟨0, wC 21 g d 0 0, none⟩
  | .time g d => some ⟨0, wC 22 g d 0 0, none⟩
  | .hint g j n => some ⟨0, wC 23 g 0 j ((0 : BitVec 7) ++ n), none⟩
  | .evt g d => some ⟨0, wC 24 g d 0 0, none⟩
  | .inject g j imm => some ⟨0, wC 25 g 0 j imm, none⟩
  | .add sl g d j k => some ⟨sl.slot, wS3 1 g d j k 0, none⟩
  | .sub sl g d j k => some ⟨sl.slot, wS3 2 g d j k 0, none⟩
  | .mul sl g d j k => some ⟨sl.slot, wS3 3 g d j k 0, none⟩
  | .mulh sl g d j k => some ⟨sl.slot, wS3 4 g d j k 0, none⟩
  | .mulhu sl g d j k => some ⟨sl.slot, wS3 5 g d j k 0, none⟩
  | .div sl g d j k => some ⟨sl.slot, wS3 6 g d j k 0, none⟩
  | .divu sl g d j k => some ⟨sl.slot, wS3 7 g d j k 0, none⟩
  | .rem sl g d j k => some ⟨sl.slot, wS3 8 g d j k 0, none⟩
  | .remu sl g d j k => some ⟨sl.slot, wS3 9 g d j k 0, none⟩
  | .and sl g d j k => some ⟨sl.slot, wS3 10 g d j k 0, none⟩
  | .or sl g d j k => some ⟨sl.slot, wS3 11 g d j k 0, none⟩
  | .xor sl g d j k => some ⟨sl.slot, wS3 12 g d j k 0, none⟩
  | .andn sl g d j k => some ⟨sl.slot, wS3 13 g d j k 0, none⟩
  | .shl sl g d j k => some ⟨sl.slot, wS3 14 g d j k 0, none⟩
  | .shr sl g d j k => some ⟨sl.slot, wS3 15 g d j k 0, none⟩
  | .sar sl g d j k => some ⟨sl.slot, wS3 16 g d j k 0, none⟩
  | .min sl g d j k => some ⟨sl.slot, wS3 17 g d j k 0, none⟩
  | .max sl g d j k => some ⟨sl.slot, wS3 18 g d j k 0, none⟩
  | .minu sl g d j k => some ⟨sl.slot, wS3 19 g d j k 0, none⟩
  | .maxu sl g d j k => some ⟨sl.slot, wS3 20 g d j k 0, none⟩
  | .clz sl g d j => some ⟨sl.slot, wS3 21 g d j 0 0, none⟩
  | .popc sl g d j => some ⟨sl.slot, wS3 22 g d j 0 0, none⟩
  | .ext sl g d j k sgn => some ⟨sl.slot, wS3 23 g d j k ((0 : BitVec 3) ++ sgn), none⟩
  | .lea sl g d j k fn => some ⟨sl.slot, wS3 24 g d j k fn, none⟩
  | .sel sl g d j k fn => some ⟨sl.slot, wS3 25 g d j k fn, none⟩
  | .addi sl g d j imm x => some ⟨sl.slot, wC 26 g d j imm, x⟩
  | .andi sl g d j imm x => some ⟨sl.slot, wC 27 g d j imm, x⟩
  | .ori sl g d j imm x => some ⟨sl.slot, wC 28 g d j imm, x⟩
  | .shli sl g d j n => some ⟨sl.slot, wC 29 g d j ((0 : BitVec 4) ++ n), none⟩
  | .shri sl g d j n => some ⟨sl.slot, wC 30 g d j ((0 : BitVec 4) ++ n), none⟩
  | .sari sl g d j n => some ⟨sl.slot, wC 31 g d j ((0 : BitVec 4) ++ n), none⟩
  | .movi sl g d imm x => some ⟨sl.slot, wC 32 g d 0 imm, x⟩
  | .movhi sl g d j imm x => some ⟨sl.slot, wC 33 g d j imm, x⟩
  | .cmp sl g pd j k cond => some ⟨sl.slot, wP 34 g pd j k cond, none⟩
  | .cmpi sl g pd j imm cond x => some ⟨sl.slot, wP 35 g pd j imm cond, x⟩
  | .pset sl g pd pj pk tt => some ⟨sl.slot, wP 36 g pd ((0 : BitVec 2) ++ pj) ((0 : BitVec 2) ++ pk) tt, none⟩
  | .fadd sl g d j k => some ⟨sl.slot, wS3 37 g d j k 0, none⟩
  | .fmul sl g d j k => some ⟨sl.slot, wS3 38 g d j k 0, none⟩
  | .ffma sl g d j k => some ⟨sl.slot, wS3 39 g d j k 0, none⟩
  | .fcvt sl g d j kind => some ⟨sl.slot, wS3 40 g d j 0 kind, none⟩
  | .fcmp sl g pd j k cond => some ⟨sl.slot, wP 41 g pd j k cond, none⟩
  | .ld g d j width sgn pol ord sc x => some ⟨2, wSM 48 g d j width sgn pol ord sc, x⟩
  | .st g d j width pol ord sc x => some ⟨2, wSM 49 g d j width 0 pol ord sc, x⟩
  | .amo g d j k fn width pol ord sc => some ⟨2, wS3 50 g d j k fn, some (wSA width pol ord sc)⟩
  | .cas g d j k width pol ord sc => some ⟨2, wS3 51 g d j k 0, some (wSA width pol ord sc)⟩
  | .vadd sl g d a b bs x => some ⟨sl.slot, wT 1 g d a b bs, x.map TExt.pack⟩
  | .vsub sl g d a b bs x => some ⟨sl.slot, wT 2 g d a b bs, x.map TExt.pack⟩
  | .vmul sl g d a b bs x => some ⟨sl.slot, wT 3 g d a b bs, x.map TExt.pack⟩
  | .vfma sl g d a b bs x => some ⟨sl.slot, wT 4 g d a b bs, x.map TExt.pack⟩
  | .vmax sl g d a b bs x => some ⟨sl.slot, wT 5 g d a b bs, x.map TExt.pack⟩
  | .vmin sl g d a b bs x => some ⟨sl.slot, wT 6 g d a b bs, x.map TExt.pack⟩
  | .vabs sl g d a x => some ⟨sl.slot, wT 7 g d a 0 0, x.map TExt.pack⟩
  | .vneg sl g d a x => some ⟨sl.slot, wT 8 g d a 0 0, x.map TExt.pack⟩
  | .vand sl g d a b bs x => some ⟨sl.slot, wT 9 g d a b bs, x.map TExt.pack⟩
  | .vor sl g d a b bs x => some ⟨sl.slot, wT 10 g d a b bs, x.map TExt.pack⟩
  | .vxor sl g d a b bs x => some ⟨sl.slot, wT 11 g d a b bs, x.map TExt.pack⟩
  | .vshl sl g d a b bs x => some ⟨sl.slot, wT 12 g d a b bs, x.map TExt.pack⟩
  | .vshr sl g d a b bs x => some ⟨sl.slot, wT 13 g d a b bs, x.map TExt.pack⟩
  | .vsar sl g d a b bs x => some ⟨sl.slot, wT 14 g d a b bs, x.map TExt.pack⟩
  | .vcmp sl g d a b bs x => some ⟨sl.slot, wT 15 g d a b bs, some x.pack⟩
  | .vsel sl g d a b bs x => some ⟨sl.slot, wT 16 g d a b bs, x.map TExt.pack⟩
  | .vmov sl g d a x => some ⟨sl.slot, wT 17 g d a 0 0, x.map TExt.pack⟩
  | .vcvt sl g d a x => some ⟨sl.slot, wT 18 g d a 0 0, some x.pack⟩
  | .vbcy sl g d a x => some ⟨sl.slot, wT 19 g d a 0 0, some x.pack⟩
  | .vbcx sl g d a x => some ⟨sl.slot, wT 20 g d a 0 0, some x.pack⟩
  | .vrolx sl g d a x => some ⟨sl.slot, wT 21 g d a 0 0, some x.pack⟩
  | .vroly sl g d a x => some ⟨sl.slot, wT 22 g d a 0 0, some x.pack⟩
  | .vsumx sl g d a x => some ⟨sl.slot, wT 23 g d a 0 0, x.map TExt.pack⟩
  | .vsumy sl g d a x => some ⟨sl.slot, wT 24 g d a 0 0, x.map TExt.pack⟩
  | .vmaxx sl g d a x => some ⟨sl.slot, wT 25 g d a 0 0, x.map TExt.pack⟩
  | .vmaxy sl g d a x => some ⟨sl.slot, wT 26 g d a 0 0, x.map TExt.pack⟩
  | .vargx sl g d a x => some ⟨sl.slot, wT 27 g d a 0 0, x.map TExt.pack⟩
  | .vscanx sl g d a x => some ⟨sl.slot, wT 28 g d a 0 0, x.map TExt.pack⟩
  | .vld sl g t j off x => some ⟨sl.slot, wTM 29 g t j 0 off, x⟩
  | .vldT sl g t j off tag => some ⟨sl.slot, wTM 29 g t j 1 off, some ((0 : BitVec 16) ++ tag)⟩
  | .vst sl g t j off x => some ⟨sl.slot, wTM 30 g t j 0 off, x⟩
  | .vqst sl g t j off x => some ⟨sl.slot, wTM 31 g t j 0 off, x⟩
  | .vdql sl g t j off x => some ⟨sl.slot, wTM 32 g t j 0 off, x⟩
  | .vdqlT sl g t j off tag => some ⟨sl.slot, wTM 32 g t j 1 off, some ((0 : BitVec 16) ++ tag)⟩
  | .viota sl g d x => some ⟨sl.slot, wT 33 g d 0 0 0, x.map TExt.pack⟩
  | .vexp2 g d a x => some ⟨4, wT 40 g d a 0 0, x.map TExt.pack⟩
  | .vlog2 g d a x => some ⟨4, wT 41 g d a 0 0, x.map TExt.pack⟩
  | .vrcp g d a x => some ⟨4, wT 42 g d a 0 0, x.map TExt.pack⟩
  | .vrsqrt g d a x => some ⟨4, wT 43 g d a 0 0, x.map TExt.pack⟩
  | .vperm g d a b x => some ⟨4, wT 44 g d a b 0, x.map TExt.pack⟩
  | .phMul g d a b bs x => some ⟨4, wT 45 g d a b bs, x.map TExt.pack⟩
  | .phDiv g d a b bs x => some ⟨4, wT 46 g d a b bs, x.map TExt.pack⟩
  | .phPow g d a b bs x => some ⟨4, wT 47 g d a b bs, x.map TExt.pack⟩
  | .phCmp g d a b bs x => some ⟨4, wT 48 g d a b bs, x.map TExt.pack⟩
  | .phSumx g d a x => some ⟨4, wT 49 g d a 0 0, x.map TExt.pack⟩
  | .phSumy g d a x => some ⟨4, wT 50 g d a 0 0, x.map TExt.pack⟩
  | .phRot g d a b x => some ⟨4, wT 51 g d a b 0, x.map TExt.pack⟩
  | .phFrom g d a x => some ⟨4, wT 52 g d a 0 0, x.map TExt.pack⟩
  | .phCvt g d a x => some ⟨4, wT 53 g d a 0 0, x.map TExt.pack⟩
  | .phCos g d a x => some ⟨4, wT 54 g d a 0 0, x.map TExt.pack⟩
  | .phSin g d a x => some ⟨4, wT 55 g d a 0 0, x.map TExt.pack⟩
  | .xblk g d a w => some ⟨5, wX 1 g d a ((0 : BitVec 6) ++ w), none⟩
  | .xzip g d a w => some ⟨5, wX 2 g d a ((0 : BitVec 6) ++ w), none⟩
  | .xunzip g d a w => some ⟨5, wX 3 g d a ((0 : BitVec 6) ++ w), none⟩
  | .xcol g d a w => some ⟨5, wX 4 g d a ((0 : BitVec 6) ++ w), none⟩
  | .mcall g r imm => some ⟨6, wMC 1 g r imm, none⟩
  | .wld g imm => some ⟨6, wMC 1 g 0 imm, none⟩
  | .mma g imm => some ⟨6, wMC 1 g 1 imm, none⟩
  | .rot g imm => some ⟨6, wMC 1 g 2 imm, none⟩
  | .drn g imm => some ⟨6, wMC 1 g 3 imm, none⟩
  | .smo g imm => some ⟨6, wMC 1 g 4 imm, none⟩
  | .zro g imm => some ⟨6, wMC 1 g 5 imm, none⟩
  | .mpset g n j => some ⟨6, wMP 2 g n j, none⟩
  | .mpget g n d => some ⟨6, wMP 3 g n d, none⟩
  | .msnap g t d h => some ⟨6, wMS 4 g t d h, none⟩
  | .bld g j k => some ⟨7, wE 1 g j k 0, none⟩
  | .bst g j k => some ⟨7, wE 2 g j k 0, none⟩
  | .bmc g j k => some ⟨7, wE 3 g j k 0, none⟩
  | .larm g j k => some ⟨7, wE 4 g j k 0, none⟩
  | .larmImm g j n => some ⟨7, wE 4 g j 0 0, some n⟩
  | .fence g ord sc => some ⟨7, wE 5 g 0 0 ((0 : BitVec 5) ++ ord ++ sc), none⟩
  | .drain g sc => some ⟨7, wE 6 g 0 0 ((0 : BitVec 7) ++ sc), none⟩
  | .fsig g die j k => some ⟨7, wE 7 g j k ((0 : BitVec 8) ++ die), none⟩
  | .mig g j k n dl => some ⟨7, wE 8 g j k n, some dl⟩
  | .wbr g j k => some ⟨7, wE 9 g j k 0, none⟩
  | .invr g j k => some ⟨7, wE 10 g j k 0, none⟩
  | .coll g fn j k => some ⟨7, wE 11 g j k ((0 : BitVec 6) ++ fn), none⟩
  | .tok g j k => some ⟨7, wE 12 g j k 0, none⟩
  | .pref g lvl j k => some ⟨7, wE 13 g j k ((0 : BitVec 8) ++ lvl), none⟩
  | .acct g d => some ⟨7, wE 14 g d 0 0, none⟩
  | .sen d id => some ⟨8, wLaw 1 d 0 id, none⟩
  | .hnt d hs => some ⟨8, wLaw 2 d 0 hs, none⟩
  | .prm d n => some ⟨8, wLaw 3 d 0 ((0 : BitVec 15) ++ n), none⟩
  | .ldi d imm => some ⟨8, wLaw 4 d 0 imm, none⟩
  | .ldh d s imm => some ⟨8, wLaw 5 d s imm, none⟩
  | .binAdd d s t => some ⟨8, wLaw 6 d s (t ++ (0 : BitVec 15)), none⟩
  | .binSub d s t => some ⟨8, wLaw 7 d s (t ++ (0 : BitVec 15)), none⟩
  | .binMul d s t => some ⟨8, wLaw 8 d s (t ++ (0 : BitVec 15)), none⟩
  | .mli d s imm => some ⟨8, wLaw 9 d s imm, none⟩
  | .binShr d s n => some ⟨8, wLaw 10 d s ((0 : BitVec 14) ++ n), none⟩
  | .binMin d s t => some ⟨8, wLaw 11 d s (t ++ (0 : BitVec 15)), none⟩
  | .binMax d s t => some ⟨8, wLaw 12 d s (t ++ (0 : BitVec 15)), none⟩
  | .clp d s t => some ⟨8, wLaw 13 d s (t ++ (0 : BitVec 15)), none⟩
  | .binAbs d s => some ⟨8, wLaw 14 d s 0, none⟩
  | .cgt s t => some ⟨8, wLaw 15 0 s (t ++ (0 : BitVec 15)), none⟩
  | .csel d s t => some ⟨8, wLaw 16 d s (t ++ (0 : BitVec 15)), none⟩
  | .ask s id => some ⟨8, wLaw 17 0 s id, none⟩
  | .sig s ss => some ⟨8, wLaw 18 0 s ss, none⟩
  | .bend => some ⟨8, wLaw 19 0 0 0, none⟩
  | .coldReset .. | .warmReset .. | .bootStageComplete .. | .configRequest .. | .thermalTrip .. | .coreFailure .. 
  | .spareCoreRemap .. | .sliceCopyDone .. | .dieRetirement .. | .dieRetirementDone .. | .registerWrite .. 
  | .seqRangeWrite .. | .tenantMapWrite .. | .vfMemoryRequest .. | .atsCompletion .. | .prgResponse .. 
  | .atsInvalidation .. | .invalidationCompletion .. | .featCommit .. | .fwGo .. | .fwRaiseMin .. | .fwVerifyDone .. 
  | .getVersion .. | .getCapabilities .. | .negotiateAlgorithms .. | .getDigests .. | .getCertificate .. 
  | .challenge .. | .getMeasurements .. | .keyExchange .. | .finish .. | .heartbeat .. | .keyUpdate .. 
  | .endSession .. | .ideKm .. | .lockInterface .. | .startInterface .. | .stopInterface .. | .tdispError .. 
  | .hostRecordWrite .. | .hostDiscardRead .. | .peerRequest .. | .laneErrorThreshold .. | .portRetrainDone .. 
  | .lawLoad .. | .lawUnload .. | .lawParamCommit .. | .frameSnapshot .. | .lawSlot .. | .composition .. 
  | .applyFrame .. | .dieDroop .. | .droopClear .. | .sliceGroupPowerDown .. | .sliceGroupReady .. | .partWrite .. 
  | .partitionReset .. | .acctAdd .. | .schedPass .. | .gateWaitExpiry .. | .planWrite .. | .mayflyPost .. 
  | .sliceEnd .. | .drainDeadlineExpiry .. | .crewSaveDone .. | .switchClearingDone .. | .scarabSwapDone .. 
  | .frameFetchDone .. | .frameEvictDone .. | .frameScrubDone .. | .fmapAssign .. | .fmapRelease .. | .fmapSwmOn .. 
  | .fmapSwmOff .. | .fmapPeek .. | .fmapCommandDone .. | .stackWaysWrite .. | .wayMaskApplied .. | .stackSplitWrite .. 
  | .stackWayclr .. | .parkResume .. | .resultLand .. | .freezeEnd .. | .loadDataReturn .. | .drainComplete .. 
  | .turnLimitExpiry .. | .unblock .. | .watchdogExpiry .. | .asyncEventEntry .. | .barrierRelease .. 
  | .realignResume .. | .landingArrival .. | .engineCommandComplete .. | .postedStorePerform .. | .fsigToken .. 
  | .collResult .. | .memberRetireComplete .. | .crewEnd .. | .shadowBankReady .. | .illegalEncoding .. => none


/-- The first slot of a list whose decoder reads the word (see the log on colliding table words). -/
def decodeFirst (w : W32) (x : Option W32) : List Nat → Option Instr
  | [] => none
  | sl :: rest =>
    match decodeEnc ⟨sl, w, x⟩ with
    | some i => some i
    | none => decodeFirst w x rest

/-- The order in which the model tries the slots for a table word that names no slot. -/
def tableSlots : List Nat := [2, 1, 4, 3, 0, 5, 6, 7, 8]

/-- The instruction the decoder reads from table bits: the op word is bits [31:0], an extension bits [63:32]. A word
that decodes alone is read so; one that needs its extension takes the zero word after it. -/
def decodeTableWord (nbits w : Nat) : Option Instr :=
  let op := BitVec.ofNat 32 w
  if nbits ≤ 32 then
    match decodeFirst op none tableSlots with
    | some i => some i
    | none => decodeFirst op (some 0) tableSlots
  else decodeFirst op (some (BitVec.ofNat 32 (w >>> 32))) tableSlots

/-- Where `decodeTableWord` found the instruction: its slot and extension. -/
def tableEnc (nbits w : Nat) : Option Enc := (decodeTableWord nbits w).bind encode

end Sys2Proof
end

