-- ==== Sys2Proof/Machine/Stop.lean ====
section
/-! DEFINITION. How an op stops: a fault is taken, a context parks or blocks, a core freezes (R180, R197 to R205); and
the checks that more than one family makes before an op runs. -/

namespace Sys2Proof.Machine

/-- The rest of the group that issues: what is left from the current bundle on (R200, R286). -/
def State.restHere (s : State) : Rest := 
  ⟨s.iss.group, s.iss.next, s.iss.transfer, s.iss.leave, s.iss.drain, s.iss.tret⟩

/-- What a park asks for: a translation for the core's b slot, or the fetch of a frame (R52, R163, R199). -/
def State.request (s : State) (cx : Nat) (p : ParkOn) : State :=
  match p with
  | .page a perm =>
    let (fn, pasid) := s.fnPasid (s.tenantOf cx)
    s.askAts (.core (coreOf cx)) fn pasid (a * 4096) perm
  | .frame f => s.fetchFor f (s.tenantOf cx)

/-- A group that stops before its bundle commits: a fault is delivered, a park or a block leaves the width. -/
def State.stop (s : State) (st : Stop) : State :=
  let cx := s.iss.cx
  match st with
  | .trap t slot =>
    let s := if t.kind = 0x06 && t.sub = 1 then
        { s with atc := s.atc.filterMap fun e => if e.final && e.owner == .core (coreOf cx) &&
            decide (e.base ≤ t.faddr.toNat % 2 ^ 57) && decide (t.faddr.toNat % 2 ^ 57 < e.base + 2 ^ e.lg) then e.taken else some e }
      else s
    s.deliver cx t slot s.iss.bundle (s.ctx cx).tick (some s.restHere)
  | .pilot t _ => s.pilotFault cx t
  | .park p =>
    ((s.request cx p).modCtx cx fun c =>
      { c with mode := .parked, parkOn := some p, pc := s.iss.bundle, rest := some s.restHere, yielded := 0 }).modCore
        (coreOf cx) fun k => { k with lastCx := cx % 4 }
  -- the watchdog counts from here on (R210)
  | .block b => s.modCtx cx fun c => { c with leaving := some (.block b), wcount := 0 }
  | .freeze f => s.modCore (coreOf cx) fun k => { k with freeze := if k.freeze.contains f then k.freeze else f :: k.freeze }
  | .engine slot =>
    match (s.ctx cx).engErr with
    | none => s
    | some t =>
      (s.modCtx cx fun c => { c with engErr := none }).deliver cx t slot s.iss.bundle (s.ctx cx).tick (some s.restHere)
  | .gone => s
  | .software code =>
    -- R297: the other ops of the bundle commit; EPC is the next bundle, or where control goes
    if s.iss.after = s.iss.next then
      s.deliver cx ⟨0x0D, code, 0⟩ 0 (s.iss.transfer.getD s.iss.next) ((s.ctx cx).tick + 1) none
    else s.deliver cx ⟨0x0D, code, 0⟩ 0 s.iss.after (s.ctx cx).tick (some s.restHere)

/-- An op that stops: the stop is taken, and marked so that the group undoes what its bundle had begun (R203). -/
def State.halt (s : State) (st : Stop) : State :=
  let t := s.stop st
  { t with iss := { t.iss with stopped := some st } }

/-- A latched engine error stops `wait`, `fence`, `drain` and `retire` (R368). -/
def State.engineStop (s : State) : Option Stop := if s.cur.engErr.isSome then some (.engine s.iss.slot) else none

/-- A unit that the current op would start: another context suspended on it blocks the group (R202), the context's own
suspended routine faults (R208), and so does an op within its occupancy (R195). -/
def State.unitStop (s : State) (fu : Fu) : Option Stop :=
  let cx := s.iss.cx
  let c := s.cur
  let b := Map.get 0 c.busy (fuNum fu)
  if (contextsOf (coreOf cx)).any (fun x => x != cx && (s.ctx x).keeps fu) then some (.block (.unit fu))
  else if c.heldBack fu then some (.trap ⟨0x04, 5, 0⟩ s.iss.slot)
  else if c.tick < b && b < farTick then some (.trap ⟨0x04, 2, 0⟩ s.iss.slot)
  else none
/-- A unit is taken for n ticks from this op's issue (R195). -/
def State.occupy (s : State) (fu : Fu) (n : Nat) : State :=
  s.modCur fun c => { c with busy := Map.put c.busy (fuNum fu) (c.tick + n) }
/-- The AB port (R341) and the CB port (R363): claims of bytes on ticks, none above the port's width. -/
def claimOver (m : Map Nat) (limit : Nat) (ts : List (Nat × Nat)) : Bool :=
  ts.any fun (t, b) => decide (limit < Map.get 0 m t + b)
def addClaims (m : Map Nat) (ts : List (Nat × Nat)) : Map Nat :=
  ts.foldl (fun m (t, b) => if b = 0 then m else Map.put m t (Map.get 0 m t + b)) m
def State.claimAb (s : State) (ts : List (Nat × Nat)) : State :=
  s.modCur fun c => { c with abClaim := addClaims c.abClaim ts }
/-- n bytes of the AB port on this tick. -/
def State.portStop (s : State) (ts : List (Nat × Nat)) : Option Stop :=
  if claimOver s.cur.abClaim 512 ts then some (.trap ⟨0x04, 2, 0⟩ s.iss.slot) else none
/-- 256-byte rows of AB that n bytes at a touch (R193). -/
def rowsTouched (a n : Nat) : List Nat := (List.range ((a + n - 1) / 256 + 1 - a / 256)).map (a / 256 + ·)
/-- A row that a DRN has not made ready (R193). -/
def Ctx.notReady (c : Ctx) (a n : Nat) : Bool := (rowsTouched a n).any fun r => decide (c.tick < Map.get 0 c.rdy r)
/-- Another writer ends the ready ticks of the rows it writes (R193). -/
def Ctx.endReady (c : Ctx) (a n : Nat) : Ctx := { c with rdy := (rowsTouched a n).foldl (fun m r => Map.del m r) c.rdy }
/-- Byte of a window fault: the first byte of the access outside it (R188). -/
def firstOut (w : Word) (a : Nat) : Nat := if winBase w ≤ a && a < winBase w + winSize w then winBase w + winSize w else a
/-- The checks of an AB access before any byte is touched: alignment, then window (R189, R205). -/
def State.abStop (s : State) (a n align : Nat) : Option Stop :=
  if a % align ≠ 0 then some (.trap ⟨0x05, 3, BitVec.ofNat 64 a⟩ s.iss.slot)
  else if !inWindow s.cur.winAb a n then
    some (.trap ⟨0x07, 2, BitVec.ofNat 64 (firstOut s.cur.winAb a)⟩ s.iss.slot)
  else none
def State.readyStop (s : State) (a n : Nat) : Option Stop :=
  if s.cur.notReady a n then some (.trap ⟨0x04, 1, 0⟩ s.iss.slot) else none
/-- The first stop of a list of checks, in the order of R205. -/
def firstStop : List (Option Stop) → Option Stop
  | [] => none
  | some st :: _ => some st
  | none :: r => firstStop r

/-- An op runs, or stops as its check says. -/
def State.unless (s : State) (st : Option Stop) (f : State → State) : State :=
  match st with
  | some st => s.halt st
  | none => f s

/-- A synchronous fault of the current op (R203, R204). -/
def State.trap (s : State) (kind sub : Nat) (faddr : Word := 0) : State := s.halt (.trap ⟨kind, sub, faddr⟩ s.iss.slot)

/-- The cycle by which a latency from now on has passed, at the clock of the issuing core's cluster. -/
def State.nominalEnd (s : State) (lat : Nat) : Nat :=
  let f := s.clk (clusterOf (coreOf s.iss.cx))
  s.g + (64 * lat + f - 1) / f
/-- The data of a load may come after its nominal tick: a free delay beyond some cycles decides, and the core freezes at that
tick until it has come (R197, R198). -/
def State.awaitId (s : State) (id lat way : Nat) : State :=
  let cx := s.iss.cx
  ((s.modCore (coreOf cx) fun k => { k with pending := id :: k.pending }).after lat (.arrive id (s.nominalEnd lat))).laterBy way (.loadDataReturn cx id)
def State.awaitData (s : State) (lat : Nat) : State :=
  let (id, s) := s.newId
  s.awaitId id lat 0

end Sys2Proof.Machine
end

