-- ==== Sys2Proof/Machine/Operands.lean ====
section
/-! DEFINITION. Operand forms: immediates (R269), scalar fields, and the lanes of a tile operand (R272, R273, R320). -/

namespace Sys2Proof.Machine

/-- The immediate of an SI op: imm10, or the extension word, sign-extended (R269, R307). -/
def immOf (imm : BitVec 10) (x : Option W32) : Word :=
  match x with
  | none => imm.signExtend 64
  | some e => e.signExtend 64
/-- The second operand of `cmpi` (R308). -/
def imm6Of (imm : BitVec 6) (x : Option W32) : Word :=
  match x with
  | none => imm.signExtend 64
  | some e => e.signExtend 64
/-- The byte offset of an SM op (R313). -/
def offOf (x : Option W32) : Word :=
  match x with
  | none => 0
  | some e => e.signExtend 64
/-- The low n bits of a register as a number. -/
def lowBits (n : Nat) (w : Word) : Nat := w.toNat % 2 ^ n

/-- Lane (y, x) of tile v as a number below 16,384. -/
def laneNo (v y x : Nat) : Nat := v * 1024 + y * 64 + x

/-- The index of a tile operand: an override of the extension, else bits [5:0] of k0 or k1 (R272, R273). -/
def Ctx.tileIndex (c : Ctx) (t : TileOp) (ov : Option (BitVec 6)) : Nat :=
  match ov with
  | some i => i.toNat
  | none => Word.bits (if t.src then c.k1 else c.k0) 5 0

/-- The lanes a tile operand addresses, in the order of R320. -/
def tileLanes (t : TileOp) (idx : Nat) : List Nat :=
  match t.dir with
  | .whole => (List.range 1024).map (t.tile * 1024 + ·)
  | .row => (List.range 64).map (laneNo t.tile (idx % 16) ·)
  | .col => (List.range 16).map (laneNo t.tile · (idx % 64))
  | .diag => (List.range 16).map fun y => laneNo t.tile y ((y + idx) % 64)

/-- Overrides of the extension for d, a and b (R273). -/
def ovD (x : Option TExt) : Option (BitVec 6) := x.bind fun x => if x.ov.getLsbD 0 then some x.id else none
def ovA (x : Option TExt) : Option (BitVec 6) := x.bind fun x => if x.ov.getLsbD 1 then some x.ia else none
def ovB (x : Option TExt) : Option (BitVec 6) := x.bind fun x => if x.ov.getLsbD 2 then some x.ib else none
def Ctx.lanesD (c : Ctx) (t : TileOp) (x : Option TExt) : List Nat := tileLanes t (c.tileIndex t (ovD x))
def Ctx.lanesA (c : Ctx) (t : TileOp) (x : Option TExt) : List Nat := tileLanes t (c.tileIndex t (ovA x))
def Ctx.lanesB (c : Ctx) (t : TileOp) (x : Option TExt) : List Nat := tileLanes t (c.tileIndex t (ovB x))
/-- Values of lanes. -/
def Ctx.lanes (c : Ctx) (ls : List Nat) : List W32 := ls.map c.lane
/-- The values of operand b: its lanes, or the low half of a scalar register in each of n lanes (R273). -/
def Ctx.valuesB (c : Ctx) (b : TileOp) (bs : BitVec 1) (x : Option TExt) (n : Nat) : List W32 :=
  if bs = 1 then List.replicate n ((c.s b.sreg.toNat).extractLsb' 0 32) else c.lanes (c.lanesB b x)

end Sys2Proof.Machine
end

