-- ==== Sys2Proof/Machine/Flags.lean ====
section
/-! DEFINITION. Relations of the comparisons and their flags (R278, R308, R312, R326). -/

namespace Sys2Proof.Machine

/-- The cmp codes of R278 on numbers of w bits. -/
def cmpRel (w cond a b : Nat) : Bool :=
  let sa := toSigned w a
  let sb := toSigned w b
  let a := a % 2 ^ w
  let b := b % 2 ^ w
  match cond with
  | 0 => a == b
  | 1 => a != b
  | 2 => decide (sa < sb)
  | 3 => decide (sa ≤ sb)
  | 4 => decide (sb < sa)
  | 5 => decide (sb ≤ sa)
  | 6 => decide (a < b)
  | 7 => decide (a ≤ b)
  | 8 => decide (b < a)
  | 9 => decide (b ≤ a)
  | 10 => a &&& b != 0
  | _ => a &&& b == 0

/-- The fcmp codes of R278. -/
def fcmpRel (cond : Nat) (a b : Exact) : Bool :=
  match cond with
  | 0 => a.eq b
  | 1 => !a.eq b
  | 2 => a.lt b
  | 3 => a.lt b || a.eq b
  | 4 => b.lt a
  | 5 => b.lt a || a.eq b
  | 6 => a.isNaN || b.isNaN
  | _ => !(a.isNaN || b.isNaN)

/-- NV of a comparison: lt, le, gt, ge for any NaN, the others for a signalling one (R312). -/
def fcmpFlags (cond : Nat) (a b : Exact) : Flags :=
  if (a.isSig || b.isSig) || (2 ≤ cond && cond ≤ 5 && (a.isNaN || b.isNaN)) then flagNV else 0

/-- A NaN operand that signals sets NV (R216, R323). -/
def sigFlags (x : Exact) : Flags := if x.isSig then flagNV else 0

end Sys2Proof.Machine
end

