-- ==== Sys2Proof/Machine/Control.lean ====
section
/-! DEFINITION. Meanings of the c-slot ops (R30, R285 to R303). -/

namespace Sys2Proof.Machine

/- Transfers (R285, R286) -/

/-- Why a transfer's target is refused: alignment, then the group-start map (R266, R271, R285). -/
def State.targetStop (s : State) (t : Word) : Option Stop :=
  if t.toNat % 4 ≠ 0 then some (.trap ⟨0x05, 3, t⟩ s.iss.slot)
  else if !s.groupStart s.iss.cx t then some (.trap ⟨0x01, 8, 0⟩ s.iss.slot)
  else none
/-- A transfer acts at the end of its group. -/
def State.latch (s : State) (t : Word) : State := { s with iss := { s.iss with transfer := some t } }
def State.goto (s : State) (t : Word) : State := s.unless (s.targetStop t) (·.latch t)
/-- Target of a B-format op (R271). -/
def State.bTarget (s : State) (off : BitVec 22) : Word := s.iss.bundle + off.signExtend 64 * 4

def execBr (g : Guard) (off : BitVec 22) (s : State) : Res := s.guarded g fun s => s.goto (s.bTarget off)
def execCall (g : Guard) (off : BitVec 22) (s : State) : Res :=
  s.guarded g fun s => s.unless (s.targetStop (s.bTarget off)) fun s => (s.latch (s.bTarget off)).writeS 1 63 s.iss.next
def execJmp (g : Guard) (j : SReg) (imm : BitVec 10) (s : State) : Res :=
  s.guarded g fun s => s.goto (s.s j + imm.signExtend 64 * 4)
def execRet (g : Guard) (s : State) : Res := s.guarded g fun s => s.goto (s.s 63)

/- Hardware loops (R287 to R290) -/

/-- The k-th group start at or after text word w; `first` counts w whatever its bit. -/
def findStart (bit : Nat → Bool) : Nat → Bool → Nat → Nat → Option Nat
  | 0, _, _, _ => none
  | fuel + 1, first, w, k =>
    if first || bit w then (if k = 0 then some w else findStart bit fuel false (w + 1) (k - 1))
    else findStart bit fuel false (w + 1) k
/-- The address of the k-th group from `start`, which counts as the first whatever its bit (R287). -/
def State.groupFrom (s : State) (cx : Nat) (start : Word) (k : Nat) : Option Word :=
  match s.crewOf cx with
  | none => none
  | some cr =>
    let w := start.toNat / 4
    let n := cr.textLen / 4
    (findStart (fun w => s.groupStart cx (BitVec.ofNat 64 (4 * w))) (n - w) true w k).map
      fun w => BitVec.ofNat 64 (4 * w)
def State.textEnd (s : State) (cx : Nat) : Word :=
  match s.crewOf cx with
  | none => 0
  | some cr => BitVec.ofNat 64 cr.textLen

def State.setLevel (s : State) (n : Nat) (l : Level) : State :=
  s.modCur fun c => { c with loops := Map.set .off c.loops n l }
/-- The set-up of `loop` and `loopp`: `stages` is none for a plain level (R287). -/
def State.loopSetup (s : State) (lv : BitVec 3) (cr : SReg) (len : BitVec 13) (stages : Option (BitVec 4)) : State :=
  let n := lv.toNat
  let count := if cr = 0 then s.cur.lcr n else s.s cr
  let start := s.iss.next
  let cx := s.iss.cx
  match s.groupFrom cx start (len.toNat - 1) with
  | none => s.trap 0x01 8
  | some stop =>
    if count = 0 then
      let skip := (s.groupFrom cx start len.toNat).getD (s.textEnd cx)
      s.unless (s.targetStop skip) fun s => (s.setLevel n .off).latch skip
    else
      let s := (s.setLevel n ⟨start, stop, stages.isSome, decide (64 < len.toNat), true⟩).after 1 (.lc n count)
      match stages with
      | none => s
      | some st => (s.after 1 (.ec (BitVec.ofNat 64 (st.toNat - 1)))).after 1 (.window 1)

def execLoop (g : Guard) (lv : BitVec 3) (cr : SReg) (len : BitVec 13) (s : State) : Res :=
  s.guarded g fun s => s.loopSetup lv cr len none
def execLoopp (g : Guard) (lv : BitVec 3) (cr : SReg) (len : BitVec 13) (stages : BitVec 4) (s : State) : Res :=
  s.guarded g fun s => s.loopSetup lv cr len (some stages)

/-- A rotation of the window lands after every write of its group (R288, R309). -/
def State.rotate (s : State) (b : Bool) : State :=
  s.modCur fun c => { c with pend := insertPend ⟨c.tick + 1, c.tick * 8 + 8, .none, .rotate b⟩ c.pend }
/-- `brstage` (R290): the pipelined step on lc0 and EC. -/
def execBrstage (g : Guard) (off : BitVec 22) (s : State) : Res :=
  s.guarded g fun s =>
    let lc := s.cur.lcr 0
    let ec := s.cur.ec
    let lc' := if lc = 0 then lc else lc - 1
    let s' := if lc = 0 then s else s.after 1 (.lc 0 lc')
    if lc' ≠ 0 then s.unless (s.targetStop (s.bTarget off)) fun _ => (s'.rotate true).latch (s.bTarget off)
    else if ec ≠ 0 then
      s.unless (s.targetStop (s.bTarget off)) fun _ => ((s'.after 1 (.ec (ec - 1))).rotate false).latch (s.bTarget off)
    else if (s.cur.level 0).active && (s.cur.level 0).stop == s.iss.group then s'.setLevel 0 .off
    else s'

/- Waiting, barriers, yielding (R291 to R293) -/

/-- A landing object's word (R249). -/
def State.landing (s : State) (core a : Nat) : Word := BitVec.ofNat 64 (s.num (abKey core a) 8)
/-- The word as a `wait` of the group that issues reads it. -/
def State.landingHere (s : State) (a : Nat) : Word := BitVec.ofNat 64 (s.abNum a 8)
def landingFree (w : Word) (ph : Bool) : Bool := !w.getLsbD 63 && w.getLsbD 62 == ph
def execWait (g : Guard) (j : SReg) (ph : BitVec 1) (s : State) : Res :=
  s.guarded g fun s =>
    let a := (s.s j).toNat
    s.unless (firstStop [s.engineStop, s.abStop a 8 8,
      if landingFree (s.landingHere a) (ph == 1) then none else some (.block (.landing a (ph == 1)))]) fun s => s

/-- Fault 0x09 when the tag is not bound to the crew (R39). -/
def State.tagNotHeld (s : State) (tag : Nat) : Bool :=
  match s.crewOf s.iss.cx with
  | none => true
  | some cr => cr.tag != some tag
/-- Dies of a crew decide the barrier's scope (R39); PKG_REL and DIE_REL are 160 and 24 (R42). -/
def Crew.relDelay (cr : Crew) : Nat := if cr.d = 1 then 24 else 160
/-- The scope at which barriers order (R39, R253); crew of one die or of several, a host store counts once it has left the
package. -/
def barrierScope : Nat := 4
/-- The arrival of the member (R40, R253): its outstanding accesses are owed to the `tbw` of the same phase. -/
def State.arrive (s : State) (cx tag : Nat) : State :=
  match (s.ctx cx).crew with
  | none => s
  | some id =>
    match s.crew? id with
    | none => s
    | some cr =>
      let arr := cx :: cr.arrivals
      let full : Bool := arr.length == cr.c * cr.d
      let cr := { cr with arrivals := arr, owes := cr.owes ++ (s.outstanding cx barrierScope).map fun i => (cr.phase, i.1),
                          release := if full then some (s.g + cr.relDelay) else cr.release }
      let s := (s.setCrew id cr).modCtx cx fun c => { c with arrived := some (tag, cr.phase) }
      if full then s.at' (s.g + cr.relDelay) (.barrierRelease id) else s
def execTba (g : Guard) (tag : BitVec 3) (s : State) : Res :=
  s.guarded g fun s =>
    let cx := s.iss.cx
    if s.tagNotHeld tag.toNat then s.trap 0x09 1
    else if ((s.crewOf cx).map fun cr => cr.arrivals.contains cx).getD false then s.trap 0x04 4
    else s.arrive cx tag.toNat
/-- The phase of the context's last arrival on the tag has not released. -/
def State.barrierHeld (s : State) (cx tag : Nat) : Bool :=
  match (s.ctx cx).arrived, s.crewOf cx with
  | some (t, ph), some cr => t == tag && decide (cr.phase ≤ ph)
  | _, _ => false
/-- The stage at which an access counts as performed at a scope, by its id. -/
def State.stageOf (s : State) (scope id : Nat) : Nat :=
  match s.posted.find? (·.id == id) with
  | some p => p.stageFor scope
  | none => performed
/-- A completed `tbw` (R253): later accesses wait for what every member owed at its `tba` of that phase; the core cache is
invalidated. -/
def State.passBarrier (s : State) (cx tag : Nat) : State :=
  match (s.ctx cx).arrived, s.crewOf cx with
  | some (t, ph), some cr =>
    if t = tag then
      let ids := s.open' ((cr.owes.filter (·.1 == ph)).map fun i => (i.2, s.stageOf barrierScope i.2))
      (s.modCtx cx fun c => { c with loadHold := c.loadHold ++ ids, storeHold := c.storeHold ++ ids }).dropCache (coreOf cx)
    else s
  | _, _ => s
def execTbw (g : Guard) (tag : BitVec 3) (s : State) : Res :=
  s.guarded g fun s =>
    let cx := s.iss.cx
    if s.tagNotHeld tag.toNat then s.trap 0x09 1
    else if s.barrierHeld cx tag.toNat then s.halt (.block (.barrier tag.toNat))
    else s.passBarrier cx tag.toNat

def State.otherReady (s : State) (cx : Nat) : Bool :=
  (contextsOf (coreOf cx)).any fun x => x != cx && (s.ctx x).mode == .ready && !(s.ctx x).halted
def State.leaveWith (s : State) (l : Leave) : State := { s with iss := { s.iss with leave := some l } }
def execYield (g : Guard) (s : State) : Res :=
  s.guarded g fun s => if s.otherReady s.iss.cx then s.leaveWith .turn else s

/- The format register (R232, R294, R295) -/
def fmtLegal (v : W32) : Bool :=
  let m (x : Nat) : Bool := x == 1 || x == 2 || x == 3 || x == 8 || x == 9
  decide (fVE v ≤ 6) && m (fMA v) && m (fMB v) && (decide (fDF v ≤ 5) || fDF v == 8 || fDF v == 9) &&
  decide (fSP v ≤ 4) && (!fSM v || fMB v == 1) && v.extractLsb' 26 6 == 0
def State.setFmt (s : State) (v : W32) : State := if fmtLegal v then s.after 4 (.fmt v) else s.trap 0x0C 1
def execFmt (g : Guard) (j : SReg) (s : State) : Res := s.guarded g fun s => s.setFmt ((s.s j).extractLsb' 0 32)
def execFmtImm (g : Guard) (val : W32) (s : State) : Res := s.guarded g fun s => s.setFmt val
def execFmtr (g : Guard) (d : SReg) (s : State) : Res := s.scalar g 1 d (s.cur.f.setWidth 64)

/- System registers (R186 to R189, R296) -/
/-- CTX_STATUS as it reads (R187). -/
def State.status (s : State) (cx : Nat) : Word :=
  let c := s.ctx cx
  BitVec.ofNat 64 (c.sys.toNat * 2 ^ 15 + c.inh.toNat * 2 ^ 14 + (c.m11 && s.feature fPOWER).toNat * 2 ^ 13 + c.flags.toNat)
/-- A system register by its number; none when R186 lists none. -/
def State.sysRead (s : State) (cx num : Nat) : Option Word :=
  let c := s.ctx cx
  match num with
  | 0x000 => some (s.status cx)
  | 0x001 => some c.cause
  | 0x002 => some c.epc
  | 0x003 => some c.faddr
  | 0x004 => some c.trapvec
  | 0x005 => some (BitVec.ofNat 64 c.tick)
  | 0x006 => some (c.wdog.setWidth 64)
  | 0x007 => some (BitVec.ofNat 64 (c.slip % 2 ^ 32))
  | 0x008 => some (BitVec.ofNat 64 (cx % 2048))
  | 0x010 => some c.winAb
  | 0x011 => some c.winWb
  | 0x012 => some c.winCb
  | _ => none
/-- A landed `wsys` under the Access column (R4, R187, R188, R210). -/
def State.sysWrite (s : State) (cx num : Nat) (v : Word) : State :=
  s.modCtx cx fun c =>
    match num with
    | 0x000 => { c with flags := c.flags &&& ~~~ v.extractLsb' 0 5, m11 := if s.feature fPOWER then v.getLsbD 13 else c.m11 }
    | 0x004 => { c with trapvec := v &&& ~~~ 3 }
    | 0x006 => if v.extractLsb' 0 32 = 0 then c else { c with wdog := v.extractLsb' 0 32 }
    | _ => c
def execRsys (g : Guard) (d : SReg) (num : BitVec 10) (s : State) : Res :=
  s.guarded g fun s =>
    match s.sysRead s.iss.cx num.toNat with
    | none => s.trap 0x01 9
    | some v => s.writeS 1 d v
def execWsys (g : Guard) (j : SReg) (num : BitVec 10) (s : State) : Res :=
  s.guarded g fun s =>
    match s.sysRead s.iss.cx num.toNat with
    | none => s.trap 0x01 9
    | some _ => s.after 1 (.sys num.toNat (s.s j))

/- Traps, returns, the end of a member (R297 to R299) -/
def execTrap (g : Guard) (code : BitVec 8) (s : State) : Res := s.guarded g fun s => s.halt (.software code.toNat)
/-- `tret` (R207): the return waits from the end of its group on. -/
def execTret (g : Guard) (s : State) : Res :=
  s.guarded g fun s =>
    if !s.cur.inh then s.trap 0x02 2 else { s with iss := { s.iss with tret := true } }
def execRetire (g : Guard) (s : State) : Res :=
  s.guarded g fun s => s.unless s.engineStop fun s => s.leaveWith .retire

/- Serving, time, the power plane (R300 to R302) -/
def execQent (g : Guard) (d : SReg) (s : State) : Res := s.scalar g 1 d s.cur.stepEntry
def execTick (g : Guard) (d : SReg) (s : State) : Res := s.scalar g 1 d (BitVec.ofNat 64 s.cur.tick)
def execTime (g : Guard) (d : SReg) (s : State) : Res := s.scalar g 1 d (BitVec.ofNat 64 s.timeNs)
/-- A posted store to a hint word at the collective die; partition 32 stands for none: it is discarded (R300, R301). -/
def State.postHint (s : State) (cx word : Nat) (v : Nat) : State :=
  let (id, s) := s.newId
  let p : Posted :=
    { id := id, cx := cx, owner := none, addr := 0, acc := ⟨0, 4, none, 8, 4⟩, pol := 0, bytes := leBytes 4 v, mask := 15,
      needs := s.open' (s.ctx cx).storeHold ++ (s.posted.filter fun p => p.cx == cx && p.hint.isSome).map fun p => (p.id, performed),
      stage := 0, sys := false, units := 0, entry := none, hint := some ((s.partOf cx).getD 32, word), inject := none,
      tick := (s.ctx cx).tick }
  { s with posted := s.posted ++ [p] }.later (.postedStorePerform id)
def execHint (g : Guard) (j : SReg) (n : BitVec 3) (s : State) : Res :=
  s.guarded g fun s => s.postHint s.iss.cx n.toNat (lowBits 32 (s.s j))
/-- `evt` reads and clears the partition's event register in one step (R104, R302). -/
def execEvt (g : Guard) (d : SReg) (s : State) : Res :=
  s.guarded g fun s =>
    match s.partOf s.iss.cx with
    | none => (s.writeS 200 d 0).awaitData 200
    | some p =>
      let v := Map.get 0 s.bin.events p
      (({ s with bin := { s.bin with events := Map.set 0 s.bin.events p 0 } }).writeS 200 d (v.setWidth 64)).awaitData 200

/- `realign` (R30) -/
def execRealign (g : Guard) (d j : SReg) (imm : BitVec 10) (s : State) : Res :=
  s.guarded g fun s =>
    let t := (s.s j + imm.signExtend 64).toNat
    if s.g + 192 < t then s.trap 0x04 3 else s.leaveWith (.realign t d.toNat)

/- `inject` (R303, R394) -/
/-- Marks on the granules of a die's stack that satisfy a test. -/
def State.markStack (s : State) (p : Nat → Gran → Bool) (m : Mark → Mark) : State :=
  let mk (e : Nat × Gran) : Nat × Gran := if p e.1 e.2 then (e.1, { e.2 with mark := m e.2.mark }) else e
  s.modTier fun t => { t with stack := t.stack.map mk }
/-- The mark of a kind on one stored copy of a granule, where the level holds it: a scratch granule once it is valid (R156). A
block's owner tag is one for all its granules (R150). -/
def State.markGranule (s : State) (cx : Nat) (acc : Access) (kind : Nat) : State :=
  let e := dieOf cx
  match acc.frame with
  | some f =>
    let i := acc.loc / 64
    let here (k : Nat) (x : Gran) : Bool := keyDie k == e && x.frame == f && x.idx == i
    let block (k : Nat) (x : Gran) : Bool := s.tier.stack.any fun y => here y.1 y.2 && sameBlock y.1 y.2 k x
    match kind with
    | 0 => s.markStack here fun m => { m with data := Nat.min 2 (m.data + 1) }
    | 1 => s.markStack here fun m => { m with data := 2 }
    | 2 => s.markStack block fun m => { m with tag := true }
    | k =>
      let m := s.hbmMarkOf (s.frame f).hbm i
      s.setHbmMark (s.frame f).hbm i ⟨Nat.min 2 (m.data + if k = 3 then 2 else 1), false, m.poison⟩
  | none =>
    if acc.die = e && kind ≤ 1 && Map.get false s.tier.scrHeld (acc.loc / 64) then
      let m := Map.get Mark.clean s.tier.scrMark (acc.loc / 64)
      s.setScrMark acc.loc { m with data := Nat.min 2 (m.data + kind + 1) }
    else s
/-- The mark performs as a P1 store to the granule would. -/
def State.postMark (s : State) (cx : Nat) (addr : Word) (acc : Access) (kind : Nat) : State :=
  let needs := s.sameGranule cx acc ++ (s.ctx cx).storeHold
  let (id, s) := s.newId
  let p : Posted :=
    { id := id, cx := cx, owner := s.ownerOf cx, addr := addr, bytes := [], mask := 0, acc := acc, pol := 1, needs := s.open' needs, stage := 0,
      sys := false, units := 0, entry := none, hint := none, inject := some kind, tick := (s.ctx cx).tick }
  { s with posted := s.posted ++ [p] }.later (.postedStorePerform id)
def execInject (g : Guard) (j : SReg) (kind : BitVec 10) (s : State) : Res :=
  s.guarded g fun s =>
    if !s.cur.sys then s.trap 0x02 1
    else match s.check s.iss.cx s.iss.slot (s.s j) 1 1 .r false with
      | .stop s st => s.halt st
      | .zero s _ => s
      | .ok s acc => s.postMark s.iss.cx (s.s j) acc kind.toNat

end Sys2Proof.Machine
end

