-- ==== Sys2Proof/Machine/LoadStore.lean ====
section
/-! DEFINITION. Meanings of the b slot's loads, stores and atomics (R313 to R318). -/

namespace Sys2Proof.Machine

def accessBytes (w : BitVec 2) : Nat := 2 ^ w.toNat

/-- Whether the core cache holds the granule of an access. -/
def State.cached (s : State) (c : Nat) (acc : Access) : Bool := !(Map.get [] (s.core c).cache (lineKey acc)).isEmpty

/-- What came of an access that performs at its issue: the value at the nominal tick, or fault 0x0A there (R313, R395). An
error that ends crews has ended the context's, or it is a fault of the bundle. -/
def State.landCame (s : State) (h : Held) (lat : Nat) : Came → State
  | .value v => s.after lat (.sreg h.d v)
  | .poison => s.after lat (.poison h.addr h.slot 1)
  | .dead => if (s.ctx h.cx).crew.isNone then { s with iss := { s.iss with stopped := some .gone } } else s.trap 0x0A 2 h.addr

/-- Later accesses follow an acquire: they wait for its result (R244, R315). -/
def State.followAcq (s : State) (h : Held) : State :=
  if h.acq then s.modCur fun c => { c with loadHold := (h.id, landed) :: c.loadHold, storeHold := (h.id, landed) :: c.storeHold }
  else s

/-- A load or atomic issues (R198, R239, R245): it performs at once when nothing it must follow is open; else, or as an atomic that
goes to another die, which it reaches a transit later (R31), it is held, its register's place is kept, and it performs later.
Either way its data may come after the nominal tick, when the core then freezes; a hit of the core cache is never late. -/
def State.issueOp (s : State) (h : Held) (lat : Nat) : State :=
  let s := if h.rel then s.askSystem h.cx (h.acc.effective h.scope) else s
  let hit : Bool := h.acc.level == 0 && s.cached (coreOf h.cx) h.acc
  let way := h.way
  let h := { h with needs := s.opNeeds h, writes := s.writeNeeds h, start := s.g + way }
  if s.opReady h h.writes then
    let x := s.performOp h
    let r := x.1.landCame h lat x.2
    if r.iss.stopped.isSome then r
    else (if hit then (if h.acq then r.after lat (.arrive h.id (r.nominalEnd lat)) else r) else r.awaitId h.id lat 0).followAcq h
  else
    (((s.modCore (coreOf h.cx) fun k => { k with held := k.held ++ [h] }).after lat (.load h.id h.d)).awaitId h.id lat way).followAcq h
/-- The access of the op that issues, with an id of its own. -/
def State.opAt (s : State) (acc : Access) (pol n : Nat) (op : MemOp) (addr : Word) (d : Nat) (acq rel : Bool) (scope : Nat) : Held :=
  ⟨s.nextId, s.iss.cx, acc, pol, n, op, addr, s.iss.slot, d, acq, rel, scope, s.cur.tick, [], [], 0⟩

/-- Checks of a policy-3 access: alignment, window, ready rows for a read, the AB port (R205, R313, R341). -/
def State.abAccess (s : State) (a n : Nat) (read : Bool) : Option Stop :=
  firstStop [s.abStop a n n, if read then s.readyStop a n else none, s.portStop [(s.cur.tick, n)]]
/-- Bytes stored to AB, which land after `lat` ticks; as they do, they end the ready ticks of their rows (R193). -/
def State.abStore (s : State) (a lat : Nat) (bs : List Byte) : State := s.after lat (.ab a bs)

def execLd (g : Guard) (d j : SReg) (width : BitVec 2) (sgn : BitVec 1) (pol : BitVec 2) (ord : BitVec 2) (scope : BitVec 3)
    (x : Option W32) (s : State) : Res :=
  s.guarded g fun s =>
    let n := accessBytes width
    let addr := s.s j + offOf x
    let cx := s.iss.cx
    if pol = 3 then
      let a := addr.toNat
      s.unless (s.abAccess a n true) fun s =>
        (s.claimAb [(s.cur.tick, n)]).writeS 4 d (extendBytes n (sgn == 1) (s.abNum a n))
    else
      let p0 : Bool := pol == 0 && decide (scope.toNat ≤ 1)
      match s.check cx s.iss.slot addr n pol.toNat .r p0 with
      | .stop s st => s.halt st
      | .zero s acc | .ok s acc =>
        let h := s.opAt acc pol.toNat n (.load (sgn == 1)) addr d.toNat (ord == 1) false scope.toNat
        s.newId.2.issueOp h (nominal (dieOf cx) acc)

def execSt (g : Guard) (d j : SReg) (width : BitVec 2) (pol : BitVec 2) (ord : BitVec 2) (scope : BitVec 3) (x : Option W32)
    (s : State) : Res :=
  s.guarded g fun s =>
    let n := accessBytes width
    let addr := s.s j + offOf x
    let bs := leBytes n (s.s d).toNat
    let cx := s.iss.cx
    if pol = 3 then
      let a := addr.toNat
      s.unless (s.abAccess a n false) fun s => (s.claimAb [(s.cur.tick, n)]).abStore a 1 bs
    else
      match s.check cx s.iss.slot addr n pol.toNat .w false with
      | .stop s st => s.halt st
      | .zero s _ => s
      | .ok s acc => s.post cx addr acc pol.toNat bs (if ord == 2 && decide (2 ≤ scope.toNat) then some scope.toNat else none)

/-- An atomic at a level other than AB (R247, R316): it reads and writes there in one step, once what it must follow has
performed; it needs both permissions of its page. A P0 atomic performs as P1 (R236). -/
def State.atomic (s : State) (d : SReg) (addr : Word) (n : Nat) (pol : BitVec 2) (ord : BitVec 2) (scope : BitVec 3) (op : MemOp) : State :=
  let cx := s.iss.cx
  let level := if pol = 0 then 1 else pol.toNat
  match s.check cx s.iss.slot addr n level .rw false with
  | .stop s st => s.halt st
  | .zero s _ => s
  | .ok t acc =>
    -- a failing `cas` writes nothing: it leaves DIRTY as it was
    let h := t.opAt acc level n op addr d.toNat (ord.getLsbD 0) (ord.getLsbD 1) scope.toNat
    let t := if t.opWrites h then t else match acc.frame with
      | some f => t.setFrame f { t.frame f with dirty := (s.frame f).dirty }
      | none => t
    t.newId.2.issueOp h (nominal (dieOf cx) acc)

/-- An atomic in AB: it reads and writes the bytes in one step at its issue, its register lands at the nominal tick (R247,
R316). -/
def State.atomicAb (s : State) (d : SReg) (a n : Nat) (op : MemOp) : State :=
  s.unless (s.abAccess a n true) fun s =>
    let old := s.num (abKey (coreOf s.iss.cx) a) n
    let s := s.claimAb [(s.cur.tick, n)]
    let s := match op.combine n old with
      | none => s
      | some v => (s.modCur fun c => c.endReady a n).abAtomicPut a (leBytes n v)
    s.writeS 4 d (BitVec.ofNat 64 old)

def execAmo (g : Guard) (d j k : SReg) (fn : BitVec 4) (width : BitVec 2) (pol : BitVec 2) (ord : BitVec 2) (scope : BitVec 3)
    (s : State) : Res :=
  s.guarded g fun s =>
    let n := accessBytes width
    let op : MemOp := .amo fn.toNat (lowBits (8 * n) (s.s k))
    if pol = 3 then s.atomicAb d (s.s j).toNat n op else s.atomic d (s.s j) n pol ord scope op

def execCas (g : Guard) (d j k : SReg) (width : BitVec 2) (pol : BitVec 2) (ord : BitVec 2) (scope : BitVec 3) (s : State) : Res :=
  s.guarded g fun s =>
    let n := accessBytes width
    let op : MemOp := .cas (lowBits (8 * n) (s.s d)) (lowBits (8 * n) (s.s k))
    if pol = 3 then s.atomicAb d (s.s j).toNat n op else s.atomic d (s.s j) n pol ord scope op

end Sys2Proof.Machine
end

