-- ==== Sys2Proof/Machine/Scalar.lean ====
section
/-! DEFINITION. Meanings of the integer and predicate ops of the a and b slots (R304 to R309). -/

namespace Sys2Proof.Machine

/-- The divider of a slot (R195, R305). -/
def dividerOf (sl : ABSlot) : Fu :=
  match sl with
  | .a => .divA
  | .b => .divB
/-- The slot's number reads 1 for a and 2 for b while the op issues; the op's own slot names its divider. -/
def State.divide (s : State) (sl : ABSlot) (g : Guard) (d : SReg) (v : Word) : Res :=
  s.guarded g fun s =>
    s.unless (s.unitStop (dividerOf sl)) fun s => (s.occupy (dividerOf sl) 16).writeS 18 d v

/-- The signed maximum and minimum, and so on, as functions of the operands (R304 to R306). -/
def mulHigh (a b : Word) : Word := BitVec.ofInt 64 (a.toInt * b.toInt / 2 ^ 64)
def mulHighU (a b : Word) : Word := BitVec.ofNat 64 (a.toNat * b.toNat / 2 ^ 64)
def divSigned (a b : Word) : Word := if b = 0 then BitVec.allOnes 64 else BitVec.ofInt 64 (a.toInt.tdiv b.toInt)
def divUnsigned (a b : Word) : Word := if b = 0 then BitVec.allOnes 64 else BitVec.ofNat 64 (a.toNat / b.toNat)
def remSigned (a b : Word) : Word := if b = 0 then a else BitVec.ofInt 64 (a.toInt.tmod b.toInt)
def remUnsigned (a b : Word) : Word := if b = 0 then a else BitVec.ofNat 64 (a.toNat % b.toNat)
/-- The shift amount: bits [5:0]. -/
def shAmt (w : Word) : Nat := lowBits 6 w
/-- Leading zeros, counted from bit n − 1 down. -/
def clzGo (w : Word) : Nat → Nat
  | 0 => 0
  | n + 1 => if w.getLsbD n then 0 else 1 + clzGo w n
def popGo (w : Word) : Nat → Nat
  | 0 => 0
  | n + 1 => (if w.getLsbD n then 1 else 0) + popGo w n
/-- `ext` (R306): lo from [5:0], len from [12:6], at most 64. -/
def extField (w k : Word) (sgn : Bool) : Word :=
  let lo := Word.bits k 5 0
  let len := Nat.min (Word.bits k 12 6) 64
  let f := (w.toNat >>> lo) % 2 ^ len
  if len = 0 then 0
  else if sgn then BitVec.ofInt 64 (toSigned len f) else BitVec.ofNat 64 f
def movHigh (j imm : Word) : Word := (imm.extractLsb' 0 32 : W32) ++ (j.extractLsb' 0 32 : W32)

def execAdd (_ : ABSlot) (g : Guard) (d j k : SReg) (s : State) : Res := s.scalar g 1 d (s.s j + s.s k)
def execSub (_ : ABSlot) (g : Guard) (d j k : SReg) (s : State) : Res := s.scalar g 1 d (s.s j - s.s k)
def execMul (_ : ABSlot) (g : Guard) (d j k : SReg) (s : State) : Res := s.scalar g 3 d (s.s j * s.s k)
def execMulh (_ : ABSlot) (g : Guard) (d j k : SReg) (s : State) : Res := s.scalar g 3 d (mulHigh (s.s j) (s.s k))
def execMulhu (_ : ABSlot) (g : Guard) (d j k : SReg) (s : State) : Res := s.scalar g 3 d (mulHighU (s.s j) (s.s k))
def execDiv (sl : ABSlot) (g : Guard) (d j k : SReg) (s : State) : Res := s.divide sl g d (divSigned (s.s j) (s.s k))
def execDivu (sl : ABSlot) (g : Guard) (d j k : SReg) (s : State) : Res := s.divide sl g d (divUnsigned (s.s j) (s.s k))
def execRem (sl : ABSlot) (g : Guard) (d j k : SReg) (s : State) : Res := s.divide sl g d (remSigned (s.s j) (s.s k))
def execRemu (sl : ABSlot) (g : Guard) (d j k : SReg) (s : State) : Res := s.divide sl g d (remUnsigned (s.s j) (s.s k))
def execAnd (_ : ABSlot) (g : Guard) (d j k : SReg) (s : State) : Res := s.scalar g 1 d (s.s j &&& s.s k)
def execOr (_ : ABSlot) (g : Guard) (d j k : SReg) (s : State) : Res := s.scalar g 1 d (s.s j ||| s.s k)
def execXor (_ : ABSlot) (g : Guard) (d j k : SReg) (s : State) : Res := s.scalar g 1 d (s.s j ^^^ s.s k)
def execAndn (_ : ABSlot) (g : Guard) (d j k : SReg) (s : State) : Res := s.scalar g 1 d (s.s j &&& ~~~ s.s k)
def execShl (_ : ABSlot) (g : Guard) (d j k : SReg) (s : State) : Res := s.scalar g 1 d (s.s j <<< shAmt (s.s k))
def execShr (_ : ABSlot) (g : Guard) (d j k : SReg) (s : State) : Res := s.scalar g 1 d (s.s j >>> shAmt (s.s k))
def execSar (_ : ABSlot) (g : Guard) (d j k : SReg) (s : State) : Res := s.scalar g 1 d ((s.s j).sshiftRight (shAmt (s.s k)))
def execMin (_ : ABSlot) (g : Guard) (d j k : SReg) (s : State) : Res :=
  s.scalar g 1 d (if (s.s k).slt (s.s j) then s.s k else s.s j)
def execMax (_ : ABSlot) (g : Guard) (d j k : SReg) (s : State) : Res :=
  s.scalar g 1 d (if (s.s j).slt (s.s k) then s.s k else s.s j)
def execMinu (_ : ABSlot) (g : Guard) (d j k : SReg) (s : State) : Res :=
  s.scalar g 1 d (if (s.s k).ult (s.s j) then s.s k else s.s j)
def execMaxu (_ : ABSlot) (g : Guard) (d j k : SReg) (s : State) : Res :=
  s.scalar g 1 d (if (s.s j).ult (s.s k) then s.s k else s.s j)
def execClz (_ : ABSlot) (g : Guard) (d j : SReg) (s : State) : Res := s.scalar g 1 d (BitVec.ofNat 64 (clzGo (s.s j) 64))
def execPopc (_ : ABSlot) (g : Guard) (d j : SReg) (s : State) : Res := s.scalar g 1 d (BitVec.ofNat 64 (popGo (s.s j) 64))
def execExt (_ : ABSlot) (g : Guard) (d j k : SReg) (sgn : BitVec 1) (s : State) : Res :=
  s.scalar g 1 d (extField (s.s j) (s.s k) (sgn == 1))
def execLea (_ : ABSlot) (g : Guard) (d j k : SReg) (sh : BitVec 4) (s : State) : Res :=
  s.scalar g 1 d (s.s j + s.s k <<< sh.toNat)
def execSel (_ : ABSlot) (g : Guard) (d j k : SReg) (pn : BitVec 4) (s : State) : Res :=
  s.scalar g 1 d (if s.cur.p pn.toNat then s.s j else s.s k)
def execAddi (_ : ABSlot) (g : Guard) (d j : SReg) (imm : BitVec 10) (x : Option W32) (s : State) : Res :=
  s.scalar g 1 d (s.s j + immOf imm x)
def execAndi (_ : ABSlot) (g : Guard) (d j : SReg) (imm : BitVec 10) (x : Option W32) (s : State) : Res :=
  s.scalar g 1 d (s.s j &&& immOf imm x)
def execOri (_ : ABSlot) (g : Guard) (d j : SReg) (imm : BitVec 10) (x : Option W32) (s : State) : Res :=
  s.scalar g 1 d (s.s j ||| immOf imm x)
def execShli (_ : ABSlot) (g : Guard) (d j : SReg) (n : BitVec 6) (s : State) : Res := s.scalar g 1 d (s.s j <<< n.toNat)
def execShri (_ : ABSlot) (g : Guard) (d j : SReg) (n : BitVec 6) (s : State) : Res := s.scalar g 1 d (s.s j >>> n.toNat)
def execSari (_ : ABSlot) (g : Guard) (d j : SReg) (n : BitVec 6) (s : State) : Res :=
  s.scalar g 1 d ((s.s j).sshiftRight n.toNat)
def execMovi (_ : ABSlot) (g : Guard) (d : SReg) (imm : BitVec 10) (x : Option W32) (s : State) : Res :=
  s.scalar g 1 d (immOf imm x)
def execMovhi (_ : ABSlot) (g : Guard) (d j : SReg) (imm : BitVec 10) (x : Option W32) (s : State) : Res :=
  s.scalar g 1 d (movHigh (s.s j) (immOf imm x))
def execCmp (_ : ABSlot) (g : Guard) (pd : BitVec 4) (j k : SReg) (cond : BitVec 4) (s : State) : Res :=
  s.guarded g fun t => t.writeP 1 pd (cmpRel 64 cond.toNat (s.s j).toNat (s.s k).toNat)
def execCmpi (_ : ABSlot) (g : Guard) (pd : BitVec 4) (j : SReg) (imm : BitVec 6) (cond : BitVec 4) (x : Option W32)
    (s : State) : Res :=
  s.guarded g fun t => t.writeP 1 pd (cmpRel 64 cond.toNat (s.s j).toNat (imm6Of imm x).toNat)
/-- Bit 2·pj + pk of the truth table (R309). -/
def execPset (_ : ABSlot) (g : Guard) (pd pj pk : BitVec 4) (tt : BitVec 4) (s : State) : Res :=
  s.guarded g fun t =>
    t.writeP 1 pd (tt.getLsbD (2 * (s.cur.p pj.toNat).toNat + (s.cur.p pk.toNat).toNat))

/- Scalar FP32 (R310 to R312): operands in [31:0], f read at issue, one rounding, flags with the result. -/

/-- The FP32 value of a register under f (R310). -/
def State.fp (s : State) (r : SReg) : Exact := decodeNum fp32 (s.cur.f.getLsbD 25) (lowBits 32 (s.s r))
/-- A rounding under f toward −∞ (R310). -/
def State.down (s : State) : Bool := (rndOf s.cur.f).rm == 3
/-- A result with its flags, both at one latency (R187). -/
def State.fpResult (s : State) (g : Guard) (lat : Nat) (d : SReg) (r : Nat × Flags) : Res :=
  s.guarded g fun t => (t.writeS lat d (BitVec.ofNat 64 r.1)).writeFlags lat r.2

def execFadd (_ : ABSlot) (g : Guard) (d j k : SReg) (s : State) : Res :=
  s.fpResult g 3 d (encodeNum fp32 (rndOf s.cur.f) ((s.fp j).add s.down (s.fp k)))
def execFmul (_ : ABSlot) (g : Guard) (d j k : SReg) (s : State) : Res :=
  s.fpResult g 3 d (encodeNum fp32 (rndOf s.cur.f) ((s.fp j).mul (s.fp k)))
def execFfma (_ : ABSlot) (g : Guard) (d j k : SReg) (s : State) : Res :=
  s.fpResult g 5 d (encodeNum fp32 (rndOf s.cur.f) (((s.fp j).mul (s.fp k)).add s.down (s.fp d)))

/-- The kinds of R311. -/
def fcvtResult (kind : Nat) (f : W32) (w : Word) : Nat × Flags :=
  let r := rndOf f
  let src (fm : Fmt) : Exact := decodeNum fm r.fz (lowBits fm.width w)
  let wide (fm : Fmt) : Nat × Flags := encodeNum fp32 r (src fm)
  match kind with
  | 0 => let (c, fl) := toIntFmt 32 r (src fp32); (ofSigned 64 (toSigned 32 c), fl)
  | 1 => encodeNum fp32 r (.ofInt (toSigned 32 (lowBits 32 w)))
  | 2 => encodeNum bf16 r (src fp32)
  | 3 => wide bf16
  | 4 => encodeNum e4m3 r (src fp32)
  | 5 => wide e4m3
  | 6 => encodeNum e5m2 r (src fp32)
  | _ => wide e5m2
def execFcvt (_ : ABSlot) (g : Guard) (d j : SReg) (kind : BitVec 4) (s : State) : Res :=
  s.fpResult g 3 d (fcvtResult kind.toNat s.cur.f (s.s j))
def execFcmp (_ : ABSlot) (g : Guard) (pd : BitVec 4) (j k : SReg) (cond : BitVec 4) (s : State) : Res :=
  s.guarded g fun t =>
    (t.writeP 1 pd (fcmpRel cond.toNat (s.fp j) (s.fp k))).writeFlags 1 (fcmpFlags cond.toNat (s.fp j) (s.fp k))

end Sys2Proof.Machine
end

