-- ==== Sys2Proof/Machine/Tile.lean ====
section
/-! DEFINITION. Meanings of the element-wise, moving and reducing ops of the tile ALUs and of the special functions
(R319 to R338). -/

namespace Sys2Proof.Machine

/- Elements of lanes (R320) -/
def elemBits (w e : Nat) (x : W32) : Nat := x.toNat / 2 ^ (w * e) % 2 ^ w
/-- A lane from one result for each element position; flags are joined. -/
def overElems (w p : Nat) (f : Nat → Nat × Flags) : W32 × Flags :=
  let r := (List.range p).foldl (fun (acc : Nat × Flags) e =>
    let (c, fl) := f e
    (acc.1 + c % 2 ^ w * 2 ^ (w * e), acc.2 ||| fl)) (0, 0)
  (BitVec.ofNat 32 r.1, r.2)
/-- Lanes and joined flags. -/
def joinLanes (rs : List (W32 × Flags)) : List W32 × Flags := (rs.map (·.1), rs.foldl (fun f r => f ||| r.2) 0)

/-- f.VE as a format. -/
def veOf (f : W32) : Elem := elemOf (fVE f)
def aluOf (sl : VWSlot) : Fu :=
  match sl with
  | .v => .alu0
  | .w => .alu1
/-- Latency of a tile ALU op by shape (R195). -/
def tileLat (d : TileOp) : Nat := if d.dir = .whole then 6 else 2
def isWhole (d : TileOp) : Bool := d.dir == .whole

/-- The shape of every tile ALU op (R319, R321): an illegal VE, the occupancy, then the lanes and flags at one latency. -/
def State.tile (s : State) (sl : VWSlot) (g : Guard) (legal : Bool) (lat : Nat) (occ : Bool) (ls : List Nat)
    (r : List W32 × Flags) : Res :=
  s.guarded g fun s =>
    if !legal then s.trap 0x01 2
    else s.unless (s.unitStop (aluOf sl)) fun s =>
      let s := if occ then s.occupy (aluOf sl) 4 else s
      (s.after lat (.lanes (ls.zip r.1))).writeFlags lat r.2

/-- An element-wise op on a and b with d as a third operand (R320, R323). -/
def State.elementwise (s : State) (sl : VWSlot) (g : Guard) (d a b : TileOp) (bs : BitVec 1) (x : Option TExt)
    (legal : Bool) (lat w : Nat) (op : Nat → Nat → Nat → Nat × Flags) : Res :=
  let c := s.cur
  let ls := c.lanesD d x
  let va := c.lanes (c.lanesA a x)
  let vb := c.valuesB b bs x ls.length
  let vd := c.lanes ls
  s.tile sl g legal lat (isWhole d) ls
    (joinLanes (((va.zip vb).zip vd).map fun ((a, b), d) =>
      overElems w (32 / w) fun e => op (elemBits w e a) (elemBits w e b) (elemBits w e d)))

/-- Floating point or integer arithmetic under VE (R322). -/
def arith (f : W32) (fop : Bool → Exact → Exact → Exact → Exact) (iop : Int → Int → Int → Int) (a b d : Nat) : Nat × Flags :=
  match veOf f with
  | .fp fm =>
    let r := rndOf f
    let v (c : Nat) : Exact := decodeNum fm r.fz c
    encodeNum fm r (fop (r.rm == 3) (v a) (v b) (v d))
  | .int w => (ofSigned w (iop (toSigned w a) (toSigned w b) (toSigned w d)), 0)
  | _ => (0, 0)
/-- Arithmetic that rounds nothing: the exact value of an operand goes back unchanged (R323, R324). -/
def exactly (f : W32) (fop : Exact → Exact → Exact) (iop : Int → Int → Int) (a b : Nat) : Nat × Flags :=
  match veOf f with
  | .fp fm =>
    let v (c : Nat) : Exact := decodeNum fm (rndOf f).fz c
    let (c, fl) := encodeNum fm rne (fop (v a) (v b))
    (c, fl ||| sigFlags (v a) ||| sigFlags (v b))
  | .int w => (ofSigned w (iop (toSigned w a) (toSigned w b)), 0)
  | _ => (0, 0)
/-- Whether arithmetic is legal under VE (R321). -/
def arithLegal (f : W32) : Bool := decide (fVE f ≤ 5)
def veWidth (f : W32) : Nat := (veOf f).width

/-- NaN is missing; −0 is less than +0 (R324). -/
def numMax (a b : Exact) : Exact :=
  if a.isNaN then b else if b.isNaN then a
  else if a.lt b || (a.eq b && a.isNeg && !b.isNeg) then b else a
def numMin (a b : Exact) : Exact :=
  if a.isNaN then b else if b.isNaN then a
  else if b.lt a || (a.eq b && b.isNeg && !a.isNeg) then b else a
/-- A NaN that stands for a result is quiet: its flag is raised apart. -/
def quiet (x : Exact) : Exact := if x.isNaN then .nan false else x

def execVadd (sl : VWSlot) (g : Guard) (d a b : TileOp) (bs : BitVec 1) (x : Option TExt) (s : State) : Res :=
  let f := s.cur.f
  s.elementwise sl g d a b bs x (arithLegal f) (tileLat d) (veWidth f)
    (arith f (fun down a b _ => a.plus down b) fun a b _ => a + b)
def execVsub (sl : VWSlot) (g : Guard) (d a b : TileOp) (bs : BitVec 1) (x : Option TExt) (s : State) : Res :=
  let f := s.cur.f
  s.elementwise sl g d a b bs x (arithLegal f) (tileLat d) (veWidth f)
    (arith f (fun down a b _ => a.plus down b.negate) fun a b _ => a - b)
def execVmul (sl : VWSlot) (g : Guard) (d a b : TileOp) (bs : BitVec 1) (x : Option TExt) (s : State) : Res :=
  let f := s.cur.f
  s.elementwise sl g d a b bs x (arithLegal f) (tileLat d) (veWidth f)
    (arith f (fun _ a b _ => a.mul b) fun a b _ => a * b)
def execVfma (sl : VWSlot) (g : Guard) (d a b : TileOp) (bs : BitVec 1) (x : Option TExt) (s : State) : Res :=
  let f := s.cur.f
  s.elementwise sl g d a b bs x (arithLegal f) (tileLat d + 2) (veWidth f)
    (arith f (fun down a b d => (a.mul b).plus down d) fun a b d => a * b + d)
def execVmax (sl : VWSlot) (g : Guard) (d a b : TileOp) (bs : BitVec 1) (x : Option TExt) (s : State) : Res :=
  let f := s.cur.f
  s.elementwise sl g d a b bs x (arithLegal f) (tileLat d) (veWidth f)
    fun a b _ => exactly f (fun a b => quiet (numMax a b)) (fun a b => if a < b then b else a) a b
def execVmin (sl : VWSlot) (g : Guard) (d a b : TileOp) (bs : BitVec 1) (x : Option TExt) (s : State) : Res :=
  let f := s.cur.f
  s.elementwise sl g d a b bs x (arithLegal f) (tileLat d) (veWidth f)
    fun a b _ => exactly f (fun a b => quiet (numMin a b)) (fun a b => if b < a then b else a) a b
def execVabs (sl : VWSlot) (g : Guard) (d a : TileOp) (x : Option TExt) (s : State) : Res :=
  let f := s.cur.f
  s.elementwise sl g d a a 0 x (arithLegal f) (tileLat d) (veWidth f)
    fun a _ _ => exactly f (fun a _ => a.absVal) (fun a _ => a.natAbs) a 0
def execVneg (sl : VWSlot) (g : Guard) (d a : TileOp) (x : Option TExt) (s : State) : Res :=
  let f := s.cur.f
  s.elementwise sl g d a a 0 x (arithLegal f) (tileLat d) (veWidth f)
    fun a _ _ => exactly f (fun a _ => a.negate) (fun a _ => -a) a 0

/- Logic (R325) -/
def execVand (sl : VWSlot) (g : Guard) (d a b : TileOp) (bs : BitVec 1) (x : Option TExt) (s : State) : Res :=
  s.elementwise sl g d a b bs x true (tileLat d) 32 fun a b _ => (a &&& b, 0)
def execVor (sl : VWSlot) (g : Guard) (d a b : TileOp) (bs : BitVec 1) (x : Option TExt) (s : State) : Res :=
  s.elementwise sl g d a b bs x true (tileLat d) 32 fun a b _ => (a ||| b, 0)
def execVxor (sl : VWSlot) (g : Guard) (d a b : TileOp) (bs : BitVec 1) (x : Option TExt) (s : State) : Res :=
  s.elementwise sl g d a b bs x true (tileLat d) 32 fun a b _ => (a ^^^ b, 0)
/-- Shifts act on elements under VE 4 and 5, else on the lane; the amount is bits [7:0] of b. -/
def shiftWidth (f : W32) : Nat := if fVE f = 5 then 8 else 32
def execVshl (sl : VWSlot) (g : Guard) (d a b : TileOp) (bs : BitVec 1) (x : Option TExt) (s : State) : Res :=
  let w := shiftWidth s.cur.f
  s.elementwise sl g d a b bs x true (tileLat d) w fun a b _ => (a * 2 ^ (b % 256) % 2 ^ w, 0)
def execVshr (sl : VWSlot) (g : Guard) (d a b : TileOp) (bs : BitVec 1) (x : Option TExt) (s : State) : Res :=
  s.elementwise sl g d a b bs x true (tileLat d) (shiftWidth s.cur.f) fun a b _ => (a / 2 ^ (b % 256), 0)
def execVsar (sl : VWSlot) (g : Guard) (d a b : TileOp) (bs : BitVec 1) (x : Option TExt) (s : State) : Res :=
  let w := shiftWidth s.cur.f
  s.elementwise sl g d a b bs x true (tileLat d) w fun a b _ =>
    (ofSigned w (toSigned w a / (2 ^ (b % 256) : Nat)), 0)
def execVmov (sl : VWSlot) (g : Guard) (d a : TileOp) (x : Option TExt) (s : State) : Res :=
  s.elementwise sl g d a a 0 x true (tileLat d) 32 fun a _ _ => (a, 0)

/-- R326: the code must not be reserved under the VE in effect. -/
def vcmpLegal (f : W32) (cond : Nat) : Bool :=
  if fVE f ≤ 3 then decide (cond ≤ 7) else if fVE f ≤ 5 then decide (cond ≤ 11) else false
def vcmpElem (f : W32) (cond a b : Nat) : Nat × Flags :=
  match veOf f with
  | .fp fm =>
    let v (c : Nat) : Exact := decodeNum fm (rndOf f).fz c
    (if fcmpRel cond (v a) (v b) then 2 ^ fm.width - 1 else 0, fcmpFlags cond (v a) (v b))
  | .int w => (if cmpRel w cond a b then 2 ^ w - 1 else 0, 0)
  | _ => (0, 0)
def execVcmp (sl : VWSlot) (g : Guard) (d a b : TileOp) (bs : BitVec 1) (x : TExt) (s : State) : Res :=
  let f := s.cur.f
  let cond := (x.aux.extractLsb' 0 4).toNat
  s.elementwise sl g d a b bs (some x) (vcmpLegal f cond) (tileLat d) (veWidth f) fun a b _ => vcmpElem f cond a b
/-- R327: any non-zero selector element takes a. -/
def execVsel (sl : VWSlot) (g : Guard) (d a b : TileOp) (bs : BitVec 1) (x : Option TExt) (s : State) : Res :=
  s.elementwise sl g d a b bs x true (tileLat d) (veWidth s.cur.f) fun a b d => (if d != 0 then a else b, 0)

/-- Conversion of one element (R328). -/
def convElem (src dst : Elem) (f : W32) (c : Nat) : Nat × Flags :=
  match src, dst with
  | .ph16, .ph16 => (if c % 2 = 1 then c % 65536 else 0, 0)
  -- a signalling NaN sets NV whatever reads it (R212)
  | src, .ph16 => let x := src.decode (rndOf f).fz c; (turnsToPh16 x, sigFlags x)
  -- a format to itself keeps an infinity under SAT as well
  | .fp a, .fp b =>
    let x := decodeNum a (rndOf f).fz c
    (match x with
      | .inf _ => if a = b then (c % 2 ^ (1 + a.eb + a.m), 0) else encodeNum b (rndOf f) x
      | x => encodeNum b (rndOf f) x)
  | src, dst => dst.encode (rndOf f) (src.decode (rndOf f).fz c)
def execVcvt (sl : VWSlot) (g : Guard) (d a : TileOp) (x : TExt) (s : State) : Res :=
  let c := s.cur
  let src := veOf c.f
  let dst := elemOf (x.aux.extractLsb' 0 4).toNat
  let p := Nat.min src.perLane dst.perLane
  s.tile sl g true (tileLat d) (isWhole d) (c.lanesD d (some x))
    (joinLanes ((c.lanes (c.lanesA a (some x))).map fun v =>
      overElems dst.width p fun e => convElem src dst c.f (elemBits src.width e v)))

/- Moving lanes (R329 to R332) -/
/-- The rows an operand of whole or row shape covers, and the columns of one of whole or column shape. -/
def rowsOf (t : TileOp) (idx : Nat) : List Nat := if t.dir = .whole then List.range 16 else [idx % 16]
def colsOf (t : TileOp) (idx : Nat) : List Nat := if t.dir = .whole then List.range 64 else [idx % 64]
/-- Lanes of d with, for each, what a function of the paired source row and the column gives. -/
def Ctx.byRow (c : Ctx) (d a : TileOp) (x : Option TExt) (v : Nat → Nat → W32) : List Nat × List W32 :=
  let ys := (rowsOf d (c.tileIndex d (ovD x))).zip (rowsOf a (c.tileIndex a (ovA x)))
  let es := ys.flatMap fun (yd, ya) => (List.range 64).map fun xx => (laneNo d.tile yd xx, v ya xx)
  (es.map (·.1), es.map (·.2))
def Ctx.byCol (c : Ctx) (d a : TileOp) (x : Option TExt) (v : Nat → Nat → W32) : List Nat × List W32 :=
  let xs := (colsOf d (c.tileIndex d (ovD x))).zip (colsOf a (c.tileIndex a (ovA x)))
  let es := xs.flatMap fun (xd, xa) => (List.range 16).map fun yy => (laneNo d.tile yy xd, v yy xa)
  (es.map (·.1), es.map (·.2))

def auxN (x : TExt) (n : Nat) : Nat := x.aux.toNat % 2 ^ n

def execVbcx (sl : VWSlot) (g : Guard) (d a : TileOp) (x : TExt) (s : State) : Res :=
  let c := s.cur
  let r := c.byRow d a (some x) fun ya _ => c.lane (laneNo a.tile ya (auxN x 6))
  s.tile sl g true 2 false r.1 (r.2, 0)
def execVbcy (sl : VWSlot) (g : Guard) (d a : TileOp) (x : TExt) (s : State) : Res :=
  let c := s.cur
  let r := c.byCol d a (some x) fun _ xa => c.lane (laneNo a.tile (auxN x 4) xa)
  s.tile sl g true 3 false r.1 (r.2, 0)
def execVrolx (sl : VWSlot) (g : Guard) (d a : TileOp) (x : TExt) (s : State) : Res :=
  let c := s.cur
  let r := c.byRow d a (some x) fun ya xx => c.lane (laneNo a.tile ya ((xx + 64 - auxN x 6) % 64))
  s.tile sl g true 2 false r.1 (r.2, 0)
def execVroly (sl : VWSlot) (g : Guard) (d a : TileOp) (x : TExt) (s : State) : Res :=
  let c := s.cur
  let r := c.byCol d a (some x) fun yy xa => c.lane (laneNo a.tile ((yy + 16 - auxN x 4) % 16) xa)
  s.tile sl g true 3 false r.1 (r.2, 0)
def execVperm (g : Guard) (d a b : TileOp) (x : Option TExt) (s : State) : Res :=
  let c := s.cur
  let yb := rowsOf b (c.tileIndex b (ovB x))
  let ya := rowsOf a (c.tileIndex a (ovA x))
  let yd := rowsOf d (c.tileIndex d (ovD x))
  let es := ((yd.zip ya).zip yb).flatMap fun ((yd, ya), yb) => (List.range 64).map fun xx =>
    (laneNo d.tile yd xx, c.lane (laneNo a.tile ya ((c.lane (laneNo b.tile yb xx)).toNat % 64)))
  s.tile .w g true (tileLat d) (isWhole d) (es.map (·.1)) (es.map (·.2), 0)
/-- R332: 64·y + x for a whole tile, x for a row, y for a column or diagonal. -/
def execViota (sl : VWSlot) (g : Guard) (d : TileOp) (x : Option TExt) (s : State) : Res :=
  let ls := s.cur.lanesD d x
  s.tile sl g true (tileLat d) (isWhole d) ls ((List.range ls.length).map (BitVec.ofNat 32), 0)

/- Reductions and scans (R333 to R337) -/

/-- The exact sum of a set: NaN for a NaN or for both infinities, the sign of a zero sum as R322 says, +0 for no summand
(R337). All denominators are powers of two, so the greatest is common. -/
def sumNums (down : Bool) (xs : List Exact) : Exact :=
  let sig := xs.any Exact.isSig
  let pos := xs.any (· == .inf false)
  let neg := xs.any (· == .inf true)
  if pos && neg then .nan true
  else if xs.any Exact.isNaN then .nan sig
  else if pos then .inf false
  else if neg then .inf true
  else
    let den (x : Exact) : Nat := match x with
      | .fin _ _ d => d
      | _ => 1
    let top := xs.foldl (fun m x => Nat.max m (den x)) 1
    let v : Int := xs.foldl (fun acc x => match x with
      | .fin ng n d => acc + Exact.sgn ng n * (top / d : Nat)
      | _ => acc) 0
    if v = 0 then
      .fin (!xs.isEmpty && (down || xs.all fun x => x.isZero && x.isNeg)) 0 1
    else .fin (decide (v < 0)) v.natAbs top

def sumElems (f : W32) (cs : List Nat) : Nat × Flags :=
  match veOf f with
  | .fp fm => let r := rndOf f; encodeNum fm r (sumNums (r.rm == 3) (cs.map (decodeNum fm r.fz)))
  | .int w => (ofSigned w (cs.foldl (fun a c => a + toSigned w c) (0 : Int)), 0)
  | _ => (0, 0)
def maxElems (f : W32) (cs : List Nat) : Nat × Flags :=
  match veOf f with
  | .fp fm =>
    let vs := cs.map (decodeNum fm (rndOf f).fz)
    ((encodeNum fm rne (quiet (vs.foldl numMax (.nan false)))).1, if vs.any Exact.isSig then flagNV else 0)
  | .int w => (ofSigned w ((cs.map (toSigned w)).foldl (fun a b => if a < b then b else a) (-(2 ^ (w - 1) : Nat))), 0)
  | _ => (0, 0)
/-- Lane number of the greatest element; NaN is ignored, a tie goes to the lowest, all ones when all are NaN (R336). -/
def argElems (f : W32) (cs : List Nat) : Nat × Flags :=
  let e := veOf f
  let best := (cs.zipIdx).foldl (fun (b : Option (Exact × Nat)) (c, i) =>
    let v := e.decode (rndOf f).fz c
    if v.isNaN then b
    else match b with
      | none => some (v, i)
      | some (u, _) => if u.lt v then some (v, i) else b) none
  (match best with
    | some (_, i) => i
    | none => 2 ^ e.width - 1, 0)

/-- The reduction of a set of lanes, each element position apart (R333). -/
def reduceLanes (f : W32) (red : W32 → List Nat → Nat × Flags) (vs : List W32) : W32 × Flags :=
  let w := veWidth f
  overElems w (32 / w) fun e => red f (vs.map (elemBits w e))
def Ctx.rowVals (c : Ctx) (t : TileOp) (y : Nat) : List W32 := (List.range 64).map fun x => c.lane (laneNo t.tile y x)
def Ctx.colVals (c : Ctx) (t : TileOp) (x : Nat) : List W32 := (List.range 16).map fun y => c.lane (laneNo t.tile y x)

/-- x-reductions: whole to a column, row to every lane of a row; y-reductions: whole to a row, column to every lane. -/
def Ctx.redX (c : Ctx) (d a : TileOp) (x : Option TExt) (red : List W32 → W32 × Flags) : List Nat × (List W32 × Flags) :=
  let ls := c.lanesD d x
  let rs := if a.dir = .whole then (List.range 16).map fun y => red (c.rowVals a y)
    else List.replicate 64 (red (c.rowVals a (c.tileIndex a (ovA x) % 16)))
  (ls, joinLanes rs)
def Ctx.redY (c : Ctx) (d a : TileOp) (x : Option TExt) (red : List W32 → W32 × Flags) : List Nat × (List W32 × Flags) :=
  let ls := c.lanesD d x
  let rs := if a.dir = .whole then (List.range 64).map fun xx => red (c.colVals a xx)
    else List.replicate 16 (red (c.colVals a (c.tileIndex a (ovA x) % 64)))
  (ls, joinLanes rs)

def execVsumx (sl : VWSlot) (g : Guard) (d a : TileOp) (x : Option TExt) (s : State) : Res :=
  let r := s.cur.redX d a x (reduceLanes s.cur.f sumElems)
  s.tile sl g (arithLegal s.cur.f) 5 false r.1 r.2
def execVsumy (sl : VWSlot) (g : Guard) (d a : TileOp) (x : Option TExt) (s : State) : Res :=
  let r := s.cur.redY d a x (reduceLanes s.cur.f sumElems)
  s.tile sl g (arithLegal s.cur.f) 4 false r.1 r.2
def execVmaxx (sl : VWSlot) (g : Guard) (d a : TileOp) (x : Option TExt) (s : State) : Res :=
  let r := s.cur.redX d a x (reduceLanes s.cur.f maxElems)
  s.tile sl g (arithLegal s.cur.f) 5 false r.1 r.2
def execVmaxy (sl : VWSlot) (g : Guard) (d a : TileOp) (x : Option TExt) (s : State) : Res :=
  let r := s.cur.redY d a x (reduceLanes s.cur.f maxElems)
  s.tile sl g (arithLegal s.cur.f) 4 false r.1 r.2
def execVargx (sl : VWSlot) (g : Guard) (d a : TileOp) (x : Option TExt) (s : State) : Res :=
  let r := s.cur.redX d a x (reduceLanes s.cur.f argElems)
  s.tile sl g (arithLegal s.cur.f) 5 false r.1 r.2

/-- Running sums of one row: each prefix exact and rounded once (R337). -/
def scanRow (f : W32) (ex : Bool) (vs : List W32) : List (W32 × Flags) :=
  (List.range 64).map fun i => reduceLanes f sumElems (vs.take (if ex then i else i + 1))
def execVscanx (sl : VWSlot) (g : Guard) (d a : TileOp) (x : Option TExt) (s : State) : Res :=
  let c := s.cur
  let ex := match x with
    | some x => x.aux.getLsbD 0
    | none => false
  let rs := (rowsOf a (c.tileIndex a (ovA x))).flatMap fun y => scanRow c.f ex (c.rowVals a y)
  s.tile sl g (arithLegal c.f) 5 false (c.lanesD d x) (joinLanes rs)

/- Special functions (R338) -/
def specialLegal (f : W32) : Bool := decide (fVE f ≤ 1)
/-- The results of zeros, infinities and NaN stand as R338's table gives them; any other is rounded once. -/
def specialElem (fn : Exact → Exact × Flags) (f : W32) (c : Nat) : Nat × Flags :=
  match veOf f with
  | .fp fm =>
    let x := decodeNum fm (rndOf f).fz c
    let (v, fl) := fn x
    let ordinary := match x with
      | .fin _ n _ => n != 0
      | _ => false
    let (r, fl') := encodeNum fm (if ordinary then rndOf f else rne) v
    (r, fl ||| fl')
  | _ => (0, 0)
def State.special (s : State) (g : Guard) (d a : TileOp) (x : Option TExt) (fn : Exact → Exact × Flags) : Res :=
  let f := s.cur.f
  s.elementwise .w g d a a 0 x (specialLegal f) 8 (veWidth f) fun a _ _ => specialElem fn f a

def execVexp2 (g : Guard) (d a : TileOp) (x : Option TExt) (s : State) : Res := s.special g d a x fun v => (exp2Num v, 0)
def execVlog2 (g : Guard) (d a : TileOp) (x : Option TExt) (s : State) : Res := s.special g d a x log2Num
def execVrcp (g : Guard) (d a : TileOp) (x : Option TExt) (s : State) : Res := s.special g d a x rcpNum
def execVrsqrt (g : Guard) (d a : TileOp) (x : Option TExt) (s : State) : Res := s.special g d a x rsqrtNum

end Sys2Proof.Machine
end

