-- ==== Sys2Proof/Machine/TileMem.lean ====
section
/-! DEFINITION. Meanings of the tile loads and stores (R339 to R343). -/

namespace Sys2Proof.Machine

/-- The AB byte address s[j] + offset × 64 (R275, R339). -/
def State.tmAddr (s : State) (j : SReg) (off : BitVec 7) (x : Option W32) : Nat :=
  let o : Word := match x with
    | none => off.signExtend 64
    | some e => e.signExtend 64
  (s.s j + o * 64).toNat
/-- Port claims of R341: a whole tile takes 512 bytes on 8 ticks, a row its bytes on the issue tick. -/
def State.tmClaims (s : State) (t : TileOp) (n : Nat) : List (Nat × Nat) :=
  if t.dir = .whole then (List.range 8).map fun i => (s.cur.tick + i, 512) else [(s.cur.tick, n)]
def tmLat (t : TileOp) : Nat := if t.dir = .whole then 10 else 6
/-- Bays of 1 KiB whose sequence tag differs from the expected one (R192, R340). -/
def State.tagStop (s : State) (tag : Option (BitVec 16)) (a n : Nat) : Option Stop :=
  match tag with
  | none => none
  | some tag =>
    let bays := (List.range ((a + n - 1) / 1024 + 1 - a / 1024)).map (a / 1024 + ·)
    if bays.all fun b => Map.get 0 (s.core (coreOf s.iss.cx)).bays b == tag.toNat then none
    else some (.trap ⟨0x03, 1, 0⟩ s.iss.slot)
/-- All checks of a tile memory op, in the order of R339 and R341. -/
def State.tmStop (s : State) (t : TileOp) (a n align : Nat) (read : Bool) (tag : Option (BitVec 16)) : Option Stop :=
  firstStop [s.abStop a n align, if read then s.tagStop tag a n else none, if read then s.readyStop a n else none,
    s.portStop (s.tmClaims t n)]

/-- A tile load: lanes from the bytes of the extent as they stand at issue. -/
def State.tileLoad (s : State) (t : TileOp) (a n align : Nat) (legal : Bool) (tag : Option (BitVec 16))
    (conv : List Byte → List W32 × Flags) : State :=
  if !legal then s.trap 0x01 2
  else s.unless (s.tmStop t a n align true tag) fun s =>
    let r := conv (s.abBytes a n)
    let c := s.cur
    ((s.claimAb (s.tmClaims t n)).after (tmLat t) (.lanes ((c.lanesD t none).zip r.1))).writeFlags (tmLat t) r.2
/-- A tile store: bytes of the lanes, which land at the op's latency. -/
def State.tileStore (s : State) (t : TileOp) (a align : Nat) (legal : Bool) (r : List Byte × Flags) : State :=
  if !legal then s.trap 0x01 2
  else s.unless (s.tmStop t a r.1.length align false none) fun s =>
    ((s.claimAb (s.tmClaims t r.1.length)).after (tmLat t) (.ab a r.1)).writeFlags (tmLat t) r.2

def wordsOf (bs : List Byte) : List W32 := (List.range (bs.length / 4)).map fun i => BitVec.ofNat 32 (leAt bs (4 * i) 4)
def bytesOfWords (ws : List W32) : List Byte := ws.flatMap fun w => leBytes 4 w.toNat

/- f.DF layouts (R343) -/
/-- Bytes of n elements (a multiple of 32), and the alignment of A. -/
def dfBytes (df n : Nat) : Nat :=
  match df with
  | 0 | 4 => 4 * n
  | 1 => 2 * n
  | 8 => n / 32 * 24
  | 9 => n / 32 * 40
  | _ => n
def dfAlign (df : Nat) : Nat :=
  match df with
  | 0 | 4 => 4
  | 1 => 2
  | 8 | 9 => 8
  | _ => 1
def dfLegal (f : W32) : Bool := fVE f == 0 || fVE f == 4
def lanesIn (t : TileOp) : Nat := if t.dir = .whole then 1024 else 64

/-- Groups of n from a list, `k` of them. -/
def chunks {α : Type} (n : Nat) : Nat → List α → List (List α)
  | 0, _ => []
  | k + 1, xs => xs.take n :: chunks n k (xs.drop n)

/-- `vqst`: the packed bytes of elements under f; every element is converted under R215 or R217, an infinity to its own format
too (R343). -/
def quantBytes (f : W32) (vs : List W32) : List Byte × Flags :=
  let src := veOf f
  match elemOf (fDF f) with
  | .bx b => ((chunks 32 (vs.length / 32) vs).flatMap fun xs => b.quantise (rndOf f).rm (xs.map fun x => src.decode false x.toNat), 0)
  | dst =>
    let rs := vs.map fun v => dst.encode (rndOf f) (src.decode (rndOf f).fz v.toNat)
    (rs.flatMap fun r => leBytes (dst.width / 8) r.1, rs.foldl (fun fl r => fl ||| r.2) 0)
/-- `vdql`: elements of f.DF read as f.VE (R343). -/
def dequantLanes (f : W32) (n : Nat) (bs : List Byte) : List W32 × Flags :=
  let dst := veOf f
  let vals : List Exact := match elemOf (fDF f) with
    | .bx b => (chunks b.bytes (n / 32) bs).flatMap fun blk => (List.range 32).map (b.decode blk)
    | src => (List.range n).map fun i => src.decode (rndOf f).fz (leAt bs (src.width / 8 * i) (src.width / 8))
  joinLanes (vals.map fun v => let r := dst.encode (rndOf f) v; (BitVec.ofNat 32 r.1, r.2))

def execVld (_ : VWSlot) (g : Guard) (t : TileOp) (j : SReg) (off : BitVec 7) (x : Option W32) (s : State) : Res :=
  s.guarded g fun s =>
    s.tileLoad t (s.tmAddr j off x) (4 * lanesIn t) 64 true none fun bs => (wordsOf bs, 0)
def execVldT (_ : VWSlot) (g : Guard) (t : TileOp) (j : SReg) (off : BitVec 7) (tag : BitVec 16) (s : State) : Res :=
  s.guarded g fun s =>
    s.tileLoad t (s.tmAddr j off none) (4 * lanesIn t) 64 true (some tag) fun bs => (wordsOf bs, 0)
def execVst (_ : VWSlot) (g : Guard) (t : TileOp) (j : SReg) (off : BitVec 7) (x : Option W32) (s : State) : Res :=
  s.guarded g fun s =>
    s.tileStore t (s.tmAddr j off x) 64 true (bytesOfWords (s.cur.lanes (s.cur.lanesD t none)), 0)
def execVqst (_ : VWSlot) (g : Guard) (t : TileOp) (j : SReg) (off : BitVec 7) (x : Option W32) (s : State) : Res :=
  s.guarded g fun s =>
    let f := s.cur.f
    s.tileStore t (s.tmAddr j off x) (dfAlign (fDF f)) (dfLegal f) (quantBytes f (s.cur.lanes (s.cur.lanesD t none)))
def execVdql (_ : VWSlot) (g : Guard) (t : TileOp) (j : SReg) (off : BitVec 7) (x : Option W32) (s : State) : Res :=
  s.guarded g fun s =>
    let f := s.cur.f
    s.tileLoad t (s.tmAddr j off x) (dfBytes (fDF f) (lanesIn t)) (dfAlign (fDF f)) (dfLegal f) none
      (dequantLanes f (lanesIn t))
def execVdqlT (_ : VWSlot) (g : Guard) (t : TileOp) (j : SReg) (off : BitVec 7) (tag : BitVec 16) (s : State) : Res :=
  s.guarded g fun s =>
    let f := s.cur.f
    s.tileLoad t (s.tmAddr j off none) (dfBytes (fDF f) (lanesIn t)) (dfAlign (fDF f)) (dfLegal f) (some tag)
      (dequantLanes f (lanesIn t))

end Sys2Proof.Machine
end

