-- ==== Sys2Proof/Machine/Matrix.lean ====
section
/-! DEFINITION. Meanings of the m slot: weight blocks, the routines WLD, MMA, ROT, DRN, SMO and ZRO, parameters and
snapshots (R350 to R366), and what their rows do on their ticks. -/

namespace Sys2Proof.Machine

/- Weight blocks (R353, R354) -/
def denseK (mb : Nat) : Nat := if mb = 8 then 192 else if mb = 1 then 48 else 96
/-- Positions kept of each group of 24. -/
def keptOf (sp : Nat) : Nat :=
  match sp with
  | 1 => 16 | 2 => 12 | 3 => 8 | 4 => 6 | _ => 24
def groupsOf (mb sp : Nat) : Nat := denseK mb / keptOf sp
def maskBytes (mb sp : Nat) : Nat := if sp = 0 then 0 else 384 * groupsOf mb sp
def valueBytes (mb : Nat) : Nat := if mb = 8 then 18432 else if mb = 9 then 15360 else 12288
def imageBytes (mb sp : Nat) : Nat := 16 + maskBytes mb sp + valueBytes mb
/-- Logical K of a bank (R350, R353). -/
def Bank.k (b : Bank) : Nat := 24 * groupsOf b.mb b.sp

/-- Value i of the stream of kept values (R354). -/
def Bank.value (b : Bank) (i : Nat) : Exact :=
  let base := 16 + maskBytes b.mb b.sp
  match elemOf b.mb with
  | .bx x => x.decode ((b.img.drop (base + i / 32 * x.bytes)).take x.bytes) (i % 32)
  | e => e.decode false (leAt b.img (base + i * (e.width / 8)) (e.width / 8))
/-- The mask of entry (g, n); all ones for a dense block. -/
def Bank.mask (b : Bank) (g n : Nat) : Nat :=
  if b.sp = 0 then 2 ^ 24 - 1 else leAt b.img (16 + 3 * (128 * g + n)) 3
/-- The smoothed weight (R225). -/
def Bank.smooth (b : Bank) (k : Nat) (w : Exact) : Exact :=
  match b.scale with
  | none => w
  | some sc =>
    decodeNum bf16 false (encodeNum bf16 rne (w.mul (decodeNum fp32 false ((sc.getD k 0).toNat)))).1
/-- Kept positions of column n with their weights, in ascending position. -/
def Bank.column (b : Bank) (n : Nat) : List (Nat × Exact) :=
  if b.img.isEmpty then (List.range b.k).map fun k => (k, .fin false 0 1)
  else (List.range (groupsOf b.mb b.sp)).flatMap fun g =>
    let m := b.mask g n
    let kept := (List.range 24).filter (hasBit m)
    (kept.zipIdx).map fun (i, j) =>
      let k := 24 * g + i
      (k, b.smooth k (b.value ((g * 128 + n) * keptOf b.sp + j)))
/-- WB address of the first mask entry without exactly N bits (R355). -/
def badMask (img : List Byte) (mb sp base : Nat) : Option Nat :=
  if sp = 0 then none
  else ((List.range (128 * groupsOf mb sp)).find? fun i =>
    (((List.range 24).filter (hasBit (leAt img (16 + 3 * i) 3))).length != keptOf sp)).map fun i => base + 16 + 3 * i

def Ctx.activeBank (c : Ctx) : Bank := if c.active then c.bank1 else c.bank0
def Ctx.shadowBank (c : Ctx) : Bank := if c.active then c.bank0 else c.bank1
def Ctx.bankOf (c : Ctx) (one : Bool) : Bank := if one then c.bank1 else c.bank0
def Ctx.setShadow (c : Ctx) (b : Bank) : Ctx := if c.active then { c with bank0 := b } else { c with bank1 := b }

/- Rows -/
/-- Bytes and alignment of an A row of K elements (R357). -/
def aBytes (ma k : Nat) : Nat :=
  match ma with
  | 1 => 2 * k
  | 8 => 24 * ((k + 31) / 32)
  | 9 => 40 * ((k + 31) / 32)
  | _ => k
def aAlign (ma : Nat) : Nat :=
  match ma with
  | 1 => 2
  | 8 | 9 => 8
  | _ => 1
def aElem (ma : Nat) (row : List Byte) (i : Nat) : Exact :=
  match elemOf ma with
  | .bx x => x.decode ((row.drop (i / 32 * x.bytes)).take x.bytes) (i % 32)
  | e => e.decode false (leAt row (i * (e.width / 8)) (e.width / 8))
def fpBytes (x : Exact) : List Byte := leBytes 4 (encodeNum fp32 rne x).1
def fpAt (row : List Byte) (n : Nat) : Exact := decodeNum fp32 false (leAt row (4 * n) 4)

/-- One row of an MMA: every output takes its K-step exactly and rounds once (R223, R357). -/
def mmaRowBytes (b : Bank) (ma : Nat) (row acc : List Byte) (fresh : Bool) : List Byte :=
  (List.range 128).flatMap fun n =>
    let a := if fresh then .fin false 0 1 else fpAt acc n
    fpBytes (sumNums false (a :: (b.column n).map fun (k, w) => (aElem ma row k).mul w))
/-- The Hadamard pass of a row by groups of n; n = 0 leaves it (R224, R359). -/
def rotRowBytes (n : Nat) (row : List Byte) : List Byte :=
  if n = 0 then row
  else (List.range 128).flatMap fun i =>
    let g := i / n * n
    fpBytes (sumNums false ((List.range n).map fun j =>
      let x := fpAt row (g + j)
      if popGo (BitVec.ofNat 64 (i % n &&& j)) 64 % 2 = 1 then x.negate else x))
/-- A drained row (R226, R360). -/
def drnRowBytes (f : W32) (df : Nat) (sigma : W32) (row : List Byte) : List Byte :=
  let sc := decodeNum fp32 false sigma.toNat
  let vs := (List.range 128).map fun n => (fpAt row n).mul sc
  match elemOf df with
  | .bx b => (chunks 32 4 vs).flatMap (b.quantise (rndOf f).rm)
  | e => vs.flatMap fun v => leBytes (e.width / 8) (e.encode (rndOf f) v).1
def drnBytes (df : Nat) : Nat := dfBytes df 128

/- Calling a routine (R351) -/
/-- Check 1: formats, and reserved bits of imm16. -/
def mcallBad (f : W32) (smooth : Bool) (imm limit : Nat) : Bool :=
  let m (x : Nat) : Bool := x == 1 || x == 2 || x == 3 || x == 8 || x == 9
  decide (limit ≤ imm) || !m (fMA f) || !m (fMB f) || (smooth && fMB f != 1)
def State.fault (s : State) (bad : Bool) (kind sub : Nat) (a : Nat := 0) : Option Stop :=
  if bad then some (.trap ⟨kind, sub, BitVec.ofNat 64 a⟩ s.iss.slot) else none
/-- Extents in a window: the first byte outside, if any. -/
def State.windowStop (s : State) (w : Word) (es : List (Nat × Nat)) : Option Stop :=
  match es.find? fun (a, n) => !inWindow w a n with
  | none => none
  | some (a, _) => some (.trap ⟨0x07, 2, BitVec.ofNat 64 (firstOut w a)⟩ s.iss.slot)
def State.claimCb (s : State) (ts : List (Nat × Nat)) : State :=
  s.modCur fun c => { c with cbClaim := addClaims c.cbClaim ts }
def State.cbStop (s : State) (ts : List (Nat × Nat)) : Option Stop :=
  if claimOver s.cur.cbClaim 1024 ts then some (.trap ⟨0x04, 2, 0⟩ s.iss.slot) else none
/-- Row addresses, in 64-bit arithmetic. -/
def rowAddrs (base stride : Word) (m : Nat) : List Nat :=
  (List.range m).map fun i => (base + stride * BitVec.ofNat 64 i).toNat
def cbRows (base : Word) (m : Nat) : List Nat := rowAddrs base 512 m
def State.bufBytes (s : State) (kind a n : Nat) : List Byte := s.bytes (bufKey (coreOf s.iss.cx) kind a) n
/-- First byte of a list of addresses that breaks an alignment. -/
def firstUnaligned (as : List (Nat × Nat)) : Option Nat := (as.find? fun (a, n) => a % n != 0).map (·.1)
def State.alignStop (s : State) (as : List (Nat × Nat)) : Option Stop :=
  match firstUnaligned as with
  | none => none
  | some a => some (.trap ⟨0x05, 3, BitVec.ofNat 64 a⟩ s.iss.slot)

/-- WLD and SMO (R355, R356): `vec` is the scale vector's AB address. -/
def State.loadBank (s : State) (imm : BitVec 16) (smooth : Bool) : Res :=
  let c := s.cur
  let f := c.f
  let t := c.tick
  let mb := fMB f
  let sp := fSP f
  let a := (c.mpr 0).toNat
  let vec := (c.mpr 1).toNat
  let g := groupsOf mb sp
  let b := imageBytes mb sp
  let vn := 96 * g
  let core := coreOf s.iss.cx
  if mcallBad f smooth imm.toNat 1 then .next (s.trap 0x01 2)
  else
    let img := s.bytes (wbKey core a) b
    let header := byteAt img 0 == mb && byteAt img 1 == sp && leAt img 2 2 == g && leAt img 4 12 == 0
    let twld := Nat.max 64 (8 + (b + 255) / 256)
    let claims := if smooth then (List.range ((vn + 255) / 256)).map fun i => (t + i, 256) else []
    let busy := c.mmas.any fun r => r.bank != c.active && decide (t < r.last)
    .next (s.unless (firstStop [
      s.alignStop (if smooth then [(a, 16), (vec, 4)] else [(a, 16)]),
      s.windowStop c.winWb [(a, b)],
      if smooth then s.windowStop c.winAb [(vec, vn)] else none,
      s.fault (!header) 0x07 3 a,
      if smooth then s.readyStop vec vn else none,
      s.unitStop .decompressor,
      s.fault busy 0x04 2,
      s.portStop claims]) fun s =>
        let scale := if smooth then some (wordsOf (s.abBytes vec vn)) else none
        ((s.claimAb claims).occupy .decompressor twld).modCur fun c =>
          c.setShadow ⟨mb, sp, img, scale, t + twld, badMask img mb sp a⟩)

def execWld (g : Guard) (imm : BitVec 16) (s : State) : Res :=
  if s.guard g then s.loadBank imm (fSM s.cur.f) else .next s
def execSmo (g : Guard) (imm : BitVec 16) (s : State) : Res :=
  if s.guard g then s.loadBank imm true else .next s

/-- MMA (R357, R358): its rows enter on their ticks; row 0 is read at issue. -/
def State.startMma (s : State) (imm : BitVec 16) : State :=
  let c := s.cur
  let f := c.f
  let t := c.tick
  let m := imm.toNat % 256 + 1
  let swap := imm.getLsbD 8
  let fresh := imm.getLsbD 9
  let bank := if swap then c.shadowBank else c.activeBank
  let ma := fMA f
  let n := aBytes ma bank.k
  let rho := Nat.max 1 ((n + 383) / 384)
  let rows := rowAddrs (c.mpr 0) (c.mpr 1) m
  let cbs := cbRows (c.mpr 2) m
  let cbClaims := (List.range m).map fun i => (t + 31 + rho * i, 512)
  let abClaims := (List.range (rho * m)).map fun i => (t + i, (n + rho - 1) / rho)
  let notReady : Bool := swap && decide (t < bank.ready)
  let needed : Bool := swap && c.mmas.any fun r => r.bank == c.active && decide (t < r.enter)
  if mcallBad f false imm.toNat 1024 then s.trap 0x01 2
  else s.unless (firstStop [
      s.alignStop [((c.mpr 0).toNat, aAlign ma), ((c.mpr 1).toNat, aAlign ma), ((c.mpr 2).toNat, 512)],
      s.windowStop c.winAb (rows.map (·, n)),
      s.windowStop c.winCb (cbs.map (·, 512)),
      if notReady then none else s.fault bank.bad.isSome 0x07 3 (bank.bad.getD 0),
      s.readyStop (rows.headD 0) n,
      s.unitStop .array,
      s.fault (notReady || needed) 0x04 2,
      s.cbStop cbClaims,
      s.portStop abClaims]) fun s =>
    let (id, s) := s.newId
    let one := if swap then !c.active else c.active
    let last := t + 32 + rho * (m - 1)
    let s := (((s.claimAb abClaims).claimCb cbClaims).occupy .array (rho * m)).modCur fun c =>
      { c with active := one, mmas := c.mmas ++ [⟨id, (c.mpr 2).toNat, m, last, one, t + rho * (m - 1), []⟩] }
    let row0 := s.abBytes (rows.headD 0) n
    let s := s.pendAt (t + 31) .array (.mmaAcc id row0 ma (cbs.headD 0) fresh one)
    let s := ((rows.zip cbs).zipIdx).foldl (fun s ((a, cb), i) =>
      if i = 0 then s else s.pendAt (t + rho * i) .array (.mmaFetch id a n ma cb fresh one)) s
    s.pendAt last .array .mmaDone
def execMma (g : Guard) (imm : BitVec 16) (s : State) : Res := s.guarded g fun s => s.startMma imm

/-- ROT (R359). -/
def hdSize (f : W32) : Nat :=
  match fHD f with
  | 0 => 0 | 1 => 32 | 2 => 64 | _ => 128
def State.startRot (s : State) (imm : BitVec 16) : State :=
  let c := s.cur
  let t := c.tick
  let m := imm.toNat % 256 + 1
  let cbs := cbRows (c.mpr 2) m
  let claims := ((List.range m).map fun i => (t + i, 512)) ++ (List.range m).map fun i => (t + 31 + i, 512)
  if mcallBad c.f false imm.toNat 256 then s.trap 0x01 2
  else s.unless (firstStop [
      s.alignStop [((c.mpr 2).toNat, 512)], s.windowStop c.winCb (cbs.map (·, 512)), s.unitStop .array,
      s.fault (claimOver (addClaims c.cbClaim claims) 1024 (claims.map fun e => (e.1, 0))) 0x04 2]) fun s =>
    let s := (s.claimCb claims).occupy .array m
    let s := s.pendAt (t + 32) .array (.cb (cbs.headD 0) (rotRowBytes (hdSize c.f) (s.bufBytes 2 (cbs.headD 0) 512)))
    (cbs.zipIdx).foldl (fun s (cb, i) => if i = 0 then s else s.pendAt (t + i) .array (.rotRow cb (hdSize c.f))) s
def execRot (g : Guard) (imm : BitVec 16) (s : State) : Res := s.guarded g fun s => s.startRot imm

/-- DRN (R360): ready ticks of the rows it writes are set at issue. -/
def readyTicks (as : List Nat) (n t : Nat) : Map Nat :=
  (as.zipIdx).foldl (fun m (a, i) => (rowsTouched a n).foldl (fun m r => Map.put m r (t + 12 + i)) m) []
def State.startDrn (s : State) (imm : BitVec 16) : State :=
  let c := s.cur
  let f := c.f
  let t := c.tick
  let m := imm.toNat % 256 + 1
  let df := fDF f
  let n := drnBytes df
  let al := dfAlign df
  let sigma := (c.mpr 3).extractLsb' 0 32
  let outs := rowAddrs (c.mpr 0) (c.mpr 1) m
  let cbs := cbRows (c.mpr 2) m
  let cbClaims := (List.range m).map fun i => (t + i, 512)
  let abClaims := (List.range m).map fun i => (t + 11 + i, n)
  if mcallBad f false imm.toNat 256 then s.trap 0x01 2
  else s.unless (firstStop [
      s.alignStop [((c.mpr 0).toNat, al), ((c.mpr 1).toNat, al), ((c.mpr 2).toNat, 512)],
      s.windowStop c.winAb (outs.map (·, n)), s.windowStop c.winCb (cbs.map (·, 512)),
      s.unitStop .converter, s.cbStop cbClaims, s.portStop abClaims]) fun s =>
    let s := (((s.claimAb abClaims).claimCb cbClaims).occupy .converter m).modCur fun c =>
      { c with rdy := (readyTicks outs n t).foldl (fun r e => Map.put r e.1 e.2) c.rdy }
    let row0 := drnRowBytes f df sigma (s.bufBytes 2 (cbs.headD 0) 512)
    let s := s.pendAt (t + 12) .converter (.ab (outs.headD 0) row0)
    ((cbs.zip outs).zipIdx).foldl (fun s ((cb, a), i) =>
      if i = 0 then s else s.pendAt (t + i) .converter (.drnRow cb a sigma df f)) s
def execDrn (g : Guard) (imm : BitVec 16) (s : State) : Res := s.guarded g fun s => s.startDrn imm

/-- ZRO (R361). -/
def State.startZro (s : State) (imm : BitVec 16) : State :=
  let c := s.cur
  let t := c.tick
  let m := imm.toNat % 256 + 1
  let cbs := cbRows (c.mpr 2) m
  let ticks := (m + 1) / 2
  let claims := (List.range ticks).map fun i => (t + i, 1024)
  if mcallBad c.f false imm.toNat 256 then s.trap 0x01 2
  else s.unless (firstStop [
      s.alignStop [((c.mpr 2).toNat, 512)], s.windowStop c.winCb (cbs.map (·, 512)), s.unitStop .cbPort,
      s.cbStop claims]) fun s =>
    let s := (s.claimCb claims).occupy .cbPort ticks
    (cbs.zipIdx).foldl (fun s (cb, i) => s.pendAt (t + 1 + i / 2) .cbPort (.cb cb (List.replicate 512 0))) s
def execZro (g : Guard) (imm : BitVec 16) (s : State) : Res := s.guarded g fun s => s.startZro imm

/-- The faults of R351, by number. -/
def routineStop (n a slot : Nat) : Stop :=
  let (kind, sub, addr) := match n with
    | 0 => (0x01, 2, 0)
    | 1 => (0x05, 3, a)
    | 2 => (0x07, 2, a)
    | 3 => (0x07, 3, a)
    | 4 => (0x04, 1, 0)
    | _ => (0x04, 2, 0)
  .trap ⟨kind, sub, BitVec.ofNat 64 addr⟩ slot
/-- A loaded routine: it reads mp0 to mp7, imm16 and f at issue, meets a fault of R351, or its results land at fixed offsets in
the windows of AB and CB; what they are stands in its release notes alone, so it is free (R351, R364). It is in flight on the
array until its last result lands (see the log). -/
def State.startLoaded (s : State) (r : Nat) (imm : BitVec 16) : State :=
  let c := s.cur
  let mps := (List.range 8).map c.mpr
  let fault := Config.routineFault s.fwHeader r mps imm c.f
  let out := Config.routineResults s.fwHeader r mps imm c.f
  let window (kind : Nat) : Word := if kind % 2 = 0 then c.winAb else c.winCb
  let outside := out.find? fun (_, kind, a, n) => !inWindow (window kind) a n
  let ticks := (out.map fun e => e.1 + 1).foldl Nat.max 0
  if mcallBad c.f false 0 1 then s.trap 0x01 2
  else match fault, outside with
    | some (n, a), _ => s.halt (routineStop (n % 6) a s.iss.slot)
    | none, some (_, kind, a, _) => s.trap 0x07 2 (BitVec.ofNat 64 (firstOut (window kind) a))
    | none, none => s.unless (s.unitStop .array) fun s =>
      out.foldl (fun s (d, kind, a, n) =>
        let bs := (List.range n).map fun j => Config.routineByte (s.fresh + j)
        { s with fresh := s.fresh + n }.pendAt (s.cur.tick + d + 1) .array (if kind % 2 = 0 then .ab a bs else .cb a bs))
        (s.occupy .array ticks)
/-- `mcall`: an index that holds no routine faults (R281, R364). -/
def execMcall (g : Guard) (routine : BitVec 6) (imm : BitVec 16) (s : State) : Res :=
  s.guarded g fun s =>
    if Config.microcodeLoaded s.fwHeader routine.toNat && 6 ≤ routine.toNat then s.startLoaded routine.toNat imm else s.trap 0x01 1

/- Parameters and snapshots (R365, R366) -/
def execMpset (g : Guard) (n : BitVec 3) (j : SReg) (s : State) : Res := s.guarded g fun t => t.after 1 (.mp n.toNat (s.s j))
def execMpget (g : Guard) (n : BitVec 3) (d : SReg) (s : State) : Res := s.scalar g 1 d (s.cur.mpr n.toNat)

/-- A CB row as `msnap` sees it: before the update of the earliest MMA in flight that names it (R366). -/
def State.snapRow (s : State) (row : Nat) : List Byte :=
  let now := s.bufBytes 2 row 512
  match s.cur.mmas.find? fun r => decide (s.cur.tick < r.last) && decide (r.cb ≤ row) && decide (row < r.cb + 512 * r.rows) with
  | none => now
  | some r => match Map.get [] r.old row with
    | [] => now
    | old => old
def State.startMsnap (s : State) (t : TileOp) (d : SReg) (h : BitVec 9) : State :=
  let c := s.cur
  let ys := rowsOf t (c.tileIndex t none)
  let ls := ys.map fun y => 16 * h.toNat + y
  let whole := isWhole t
  let claims := if whole then (List.range 8).map fun i => (c.tick + i, 512) else [(c.tick, 256)]
  let lat := if whole then 10 else 6
  s.unless (firstStop [s.windowStop c.winCb (ls.map fun l => (256 * l, 256)), s.cbStop claims]) fun s =>
    let vs := (ys.zip ls).flatMap fun (y, l) =>
      let row := wordsOf ((s.snapRow (512 * (l / 2))).drop (256 * (l % 2)))
      (List.range 64).map fun x => (laneNo t.tile y x, row.getD x 0)
    ((s.claimCb claims).after lat (.lanes vs)).writeS lat d (BitVec.ofNat 64 c.mmaDone)
def execMsnap (g : Guard) (t : TileOp) (d : SReg) (h : BitVec 9) (s : State) : Res := s.guarded g fun s => s.startMsnap t d h

end Sys2Proof.Machine
end

