-- ==== Sys2Proof/Machine/Engine.lean ====
section
/-! DEFINITION. Meanings of the e slot: engine commands, landing objects, fences and accounts (R367 to R382), and how a
queued command goes on (R368, R369). -/

namespace Sys2Proof.Machine

/- Landing objects (R249, R250) -/
/-- `larm` of n units over an object's word. -/
def armWord (w : Word) (n : Nat) : Word :=
  let ph := w.getLsbD 62
  if n = 0 then BitVec.ofNat 64 ((!ph).toNat * 2 ^ 62) else BitVec.ofNat 64 (2 ^ 63 + ph.toNat * 2 ^ 62 + n)
/-- An arrival of u units. -/
def arriveWord (w : Word) (u : Nat) : Word :=
  let out := (w.toNat + 2 ^ 32 - u % 2 ^ 32) % 2 ^ 32
  let w := w &&& ~~~ 0xFFFFFFFF ||| BitVec.ofNat 64 out
  if w.getLsbD 63 && out == 0 then BitVec.ofNat 64 ((!w.getLsbD 62).toNat * 2 ^ 62) ||| (w &&& 0x3FFFFFFFFFFFFFFF) else w

/-- Bytes that the engine writes into a core's AB: they end the ready ticks of the rows (R193). -/
def State.putAb (s : State) (core a : Nat) (bs : List Byte) : State :=
  (contextsOf core).foldl (fun s cx => if (s.ctx cx).rdy.isEmpty then s else s.modCtx cx fun c => c.endReady a bs.length)
    (s.putBytes (abKey core a) bs)
def State.arrival (s : State) (core a u : Nat) : State :=
  s.putAb core a (leBytes 8 (arriveWord (s.landing core a) u).toNat)

/-- The bytes that a landing store to AB writes, and where. -/
def State.landBytes (s : State) (core : Nat) (a : Act) : Option (Nat × List Byte) :=
  match a with
  | .ab a bs => some (a, bs)
  | .larm a n => some (a, leBytes 8 (armWord (s.landing core a) n).toNat)
  | _ => none
/-- Pending actions of a context, those set aside by a handler too. -/
def Ctx.allPend (c : Ctx) : List Pend := c.pend ++ (match c.snap with | none => [] | some sn => sn.pend)
/-- A byte that a store of a higher slot of the same group has written already (R239). -/
def Ctx.topped (c : Ctx) (seq b : Nat) : Bool :=
  c.abTop.any fun e => e.1 / 8 == seq / 8 && decide (seq < e.1) && decide (e.2.1 ≤ b) && decide (b < e.2.1 + e.2.2)
/-- A store of a context to its AB lands: it leaves what a higher slot of its group has written (R239), and ends the ready ticks of
its rows, except that the rows of the drain converter are what makes them ready (R193). -/
def State.landAb (s : State) (cx : Nat) (p : Pend) : State :=
  let core := coreOf cx
  match s.landBytes core p.act with
  | none => s
  | some (a, bs) =>
    let c := s.ctx cx
    let put (s : State) (a : Nat) (bs : List Byte) : State :=
      if p.fu = .converter then s.putBytes (abKey core a) bs else s.putAb core a bs
    let s := if !c.abTop.any (fun e => e.1 / 8 == p.seq / 8 && decide (p.seq < e.1)) then put s a bs
      else (bs.zipIdx).foldl (fun s e => if c.topped p.seq (a + e.2) then s else put s (a + e.2) [e.1]) s
    s.modCtx cx fun c =>
      { c with abTop := ((p.seq, a, bs.length) :: c.abTop).filter fun e => c.allPend.any fun q => q.seq / 8 == e.1 / 8 && decide (q.seq < e.1) }
def insertLand (p : Pend) : List Pend → List Pend
  | [] => [p]
  | q :: qs => if p.land < q.land then p :: q :: qs else q :: insertLand p qs
/-- Stores of a context to its AB that have not landed: the drain converter's rows are not stores (R342). -/
def Ctx.abStores (c : Ctx) : List Pend :=
  c.allPend.filter fun p =>
    p.fu != .converter && (match p.act with | .ab .. | .larm .. => true | _ => false)
/-- AB as it stands once every store the context has issued has landed (R367). -/
def State.abSoon (s : State) (cx a n : Nat) : List Byte :=
  let core := coreOf cx
  let ps := (s.ctx cx).abStores.foldl (fun l p => insertLand p l) []
  (ps.foldl (fun s p => s.landAb cx p) s).bytes (abKey core a) n

/-- The first latched error of a context stands (R368). -/
def State.latchError (s : State) (cx : Nat) (t : Trap) : State :=
  s.modCtx cx fun c => if c.crew.isNone || c.engErr.isSome then c else { c with engErr := some t }

/- The queue (R367) -/
def State.queueStop (s : State) : Option Stop :=
  if 16 ≤ (s.core (coreOf s.iss.cx)).queue.length then some (.block .queue) else none
/-- The tier of the memory at an address of a tenant (R119, R120) by the translations of a core's engine, none while it has none.
`back` asks for a frame's backing tier. -/
def State.tierOf (s : State) (core : Nat) (t : Option Nat) (a : Nat) (back : Bool) : Option Nat :=
  let (fn, pasid) := s.fnPasid t
  (s.atcFind (.bulk core) fn pasid a).map fun e =>
    match s.classify (e.tbase + (a % 2 ^ 57 - e.base)) with
    | .frame f _ => if back then (s.frame f).tier else 1
    | .stack _ => 0
    | .host _ => 2
/-- What decides a command's tier: the addresses of its memory end, and whether their backing tier counts; and its byte
extent (R120). -/
def Cmd.places : Cmd → List (Nat × Bool)
  | .bulk _ _ _ _ _ _ _ _ _ x => [(x, false)]
  | .mig es _ _ => es.map fun e => (e.toNat, true)
  | _ => []
def Cmd.extent : Cmd → Nat
  | .bulk _ esize _ _ _ _ _ _ dims _ => dims.foldl (fun n d => n * d.1) (2 ^ esize)
  | .mig es _ _ => 65536 * es.length
  | _ => 0
/-- The tenant of a command: its crew's. -/
def State.payer (s : State) (e : Entry) : Option Nat := (s.crew? e.crew).bind (·.tenant)
/-- The charge of a command whose tier is still to be known (R120; see the log), at the rates of its enqueue: what its bytes
cost at least, and the rest once every address that decides the tier has been translated, or, when the command ends before
that, by those that have been. -/
def State.settle (s : State) (e : Entry) (ends : Bool) : State × Entry :=
  match e.owing with
  | none => (s, e)
  | some o =>
    let t := s.payer e
    let ts := e.cmd.places.map fun p => s.tierOf (coreOf e.cx) t p.1 p.2
    let m := (ts.filterMap id).foldl Nat.max o.tier
    let due := Nat.max o.paid (leastCharge o.rates e.cmd.extent)
    let pay (f : Nat → State) : State := match t with
      | none => s
      | some t => f t
    if ends || ts.all (·.isSome) then (pay fun t => s.chargeRest t m e.cmd.extent o.paid o.rates, { e with owing := none })
    else (pay fun t => s.charge t (due - o.paid), { e with owing := some { o with tier := m, paid := due } })
/-- What the cancelled commands of a crew still owe is paid, those recorded in its save among them (R120). -/
def State.payOwed (s : State) (crew : Nat) : State :=
  let saved := ((s.crew? crew).map (·.savedQ)).getD []
  let s' := (s.owed.filter (·.crew == crew) ++ saved).foldl (fun s e => (s.settle e true).1) s
  { s' with owed := s.owed.filter (·.crew != crew) }

/-- A command is enqueued; it is held as a later load and as a later store (R245). -/
def State.enqueue (s : State) (cmd : Cmd) (extra : List (Nat × Nat)) : State :=
  let c := s.cur
  let cx := s.iss.cx
  let core := coreOf cx
  let needs := s.open' (c.loadHold ++ c.storeHold ++ extra)
  let (id, s) := s.newId
  let owing : Option Owing := if cmd.places.isEmpty then none else some ⟨0, 0, s.acctRates⟩
  let (s, e) := s.settle ⟨id, cx, c.crew.getD 0, cmd, 0, needs, false, false, c.tick, s.g, [], none, owing, 0, none⟩ false
  let s := s.modCore core fun k => { k with queue := k.queue ++ [e] }
  match cmd with
  | .fsig h .. => s.laterBy (if s.dieState h = 0 then 0 else transit (dieOf cx) h) (.fsigToken core id)
  | _ => s.later (.landingArrival core id)
/-- The checks of a command after its guard: the queue, then its own. -/
def State.command (s : State) (checks : List (Option Stop)) (f : State → State) : State :=
  s.unless (firstStop (s.queueStop :: checks)) f

/-- An extent from its lowest to its highest byte (R371 check 4, R377): `neg` when the lowest lies below zero. -/
def rangeFault (lo hi : Int) : Option (Nat × Int) :=
  if lo < 0 then some (2, 0)
  else if !canonical lo.toNat then some (1, lo)
  else if hi ≥ 2 ^ 64 then some (2, lo)
  else if !canonical hi.toNat then some (1, hi)
  else if lo.toNat / 2 ^ 56 % 2 ≠ hi.toNat / 2 ^ 56 % 2 then some (2, lo)
  else none
def State.rangeStop (s : State) (lo hi : Int) : Option Stop :=
  match rangeFault lo hi with
  | none => none
  | some (sub, a) => some (.trap ⟨0x05, sub, BitVec.ofInt 64 a⟩ s.iss.slot)

/-- The charge of a command whose tier its operands give, at its enqueue (R120). -/
def State.chargeCmd (s : State) (tier n : Nat) : State :=
  match s.tenantOf s.iss.cx with
  | none => s
  | some t => s.chargeBytes t tier n

/- Bulk load, store, multicast (R370 to R372) -/
/-- A bulk operand block. -/
structure Blk where
  esize : Nat
  dkind : Nat
  pol   : Nat
  cmask : Nat
  tag   : Nat
  lobj  : Nat
  dbase : Nat
  dims  : List (Nat × Int)
  deriving DecidableEq, Repr
def Blk.count (b : Blk) : Nat := b.dims.foldl (fun n d => n * d.1) 1
/-- L, in bytes. -/
def Blk.extent (b : Blk) : Nat := 2 ^ b.esize * b.count
def blkOf (bs : List Byte) : Blk :=
  { esize := byteAt bs 1
    dkind := byteAt bs 2 % 4
    pol := byteAt bs 2 / 4 % 4
    cmask := byteAt bs 3 % 16
    tag := leAt bs 4 2
    lobj := 8 * leAt bs 6 2
    dbase := leAt bs 8 4
    dims := (List.range (byteAt bs 0 % 8)).map fun i => (leAt bs (16 + 8 * i) 2, toSigned 48 (leAt bs (18 + 8 * i) 6)) }
/-- Check 2 of R371. -/
def blkBad (bs : List Byte) (op : Nat) : Bool :=
  let b := blkOf bs
  let nd := byteAt bs 0
  nd == 0 || decide (6 < nd) || decide (6 < b.esize) || b.dkind == 3 || decide (1 < b.pol) || byteAt bs 2 / 16 != 0 ||
  byteAt bs 3 / 16 != 0 || (op != 2 && b.cmask != 0) || leAt bs 12 4 != 0 ||
  (List.range 6).any (fun i => decide (nd ≤ i) && leAt bs (16 + 8 * i) 8 != 0) ||
  b.dims.any (fun d => d.1 == 0) || decide (2 ^ 32 - 1 < b.extent)
/-- Lowest and highest byte of the memory side. -/
def Blk.low (b : Blk) (x : Nat) : Int := b.dims.foldl (fun a d => if d.2 < 0 then a + (d.1 - 1 : Int) * d.2 else a) x
def Blk.high (b : Blk) (x : Nat) : Int :=
  b.dims.foldl (fun a d => if d.2 < 0 then a else a + (d.1 - 1 : Int) * d.2) (x : Int) + 2 ^ b.esize - 1
/-- Receivers of a multicast: cores of the issuing cluster under CMASK (R372). -/
def receivers (core cmask : Nat) : List Nat :=
  ((List.range 4).filter (hasBit cmask)).map (clusterOf core * 4 + ·)
/-- A core holds a member of the context's crew. -/
def State.holdsMember (s : State) (cx core : Nat) : Bool :=
  (contextsOf core).any fun x => (s.ctx x).crew.isSome && (s.ctx x).crew == (s.ctx cx).crew
def windowOf (c : Ctx) (kind : Nat) : Word := if kind = 0 then c.winAb else if kind = 1 then c.winWb else c.winCb

/-- `op`: 0 `bld`, 1 `bst`, 2 `bmc`. -/
def State.bulk (s : State) (op : Nat) (j k : Word) : State :=
  let c := s.cur
  let cx := s.iss.cx
  let slot := s.iss.slot
  let bs := s.abSoon cx j.toNat 64
  let b := blkOf bs
  let x := k.toNat
  let sz := 2 ^ b.esize
  s.unless (firstStop [s.queueStop, s.abStop j.toNat 64 64, s.fault (blkBad bs op) 0x01 2]) fun s =>
    s.unless (firstStop [
      s.fault ((op != 0 && b.dkind != 0) ||
        (op == 2 && (b.cmask == 0 || (receivers (coreOf cx) b.cmask).any fun r => !s.holdsMember cx r))) 0x07 1,
      (if x % sz != 0 || b.dims.any (fun d => d.2 % (sz : Int) != 0) then some (.trap ⟨0x05, 3, k⟩ slot) else none),
      s.rangeStop (b.low x) (b.high x),
      s.windowStop (windowOf c b.dkind) [(b.dbase, b.extent)],
      s.windowStop c.winAb [(b.lobj, 8)]]) fun s =>
        s.enqueue (.bulk op b.esize b.dkind b.pol b.cmask b.tag b.lobj b.dbase b.dims x) []

def execBld (g : Guard) (j k : SReg) (s : State) : Res := s.guarded g fun s => s.bulk 0 (s.s j) (s.s k)
def execBst (g : Guard) (j k : SReg) (s : State) : Res := s.guarded g fun s => s.bulk 1 (s.s j) (s.s k)
def execBmc (g : Guard) (j k : SReg) (s : State) : Res := s.guarded g fun s => s.bulk 2 (s.s j) (s.s k)

/- Arming, fences, drains (R373, R374) -/
def State.arm (s : State) (a n : Nat) : State :=
  s.unless (s.abStop a 8 8) fun s => s.after 1 (.larm a n)
def execLarm (g : Guard) (j k : SReg) (s : State) : Res := s.guarded g fun s => s.arm (s.s j).toNat (lowBits 32 (s.s k))
def execLarmImm (g : Guard) (j : SReg) (n : W32) (s : State) : Res := s.guarded g fun s => s.arm (s.s j).toNat n.toNat

/-- The acquire part of a fence (R245): every later access follows the earlier loads that have not read, and each of these
empties the core cache as it reads, as the fence itself does, at cluster scope or wider. -/
def State.fenceAcq (s : State) (scope : Nat) : State :=
  let cx := s.iss.cx
  let core := coreOf cx
  let ids := (s.heldOf cx).map fun h => (h.id, performed)
  let mark (h : Held) : Held := if h.cx = cx then { h with acq := true, scope := Nat.max h.scope scope } else h
  let s := if 2 ≤ scope then (s.dropCache core).modCore core fun k => { k with held := k.held.map mark } else s
  s.modCur fun c => { c with loadHold := c.loadHold ++ ids, storeHold := c.storeHold ++ ids }
/-- A fence's holds (R245): `ids` are the earlier accesses that a release or a full fence puts before later stores, a full
fence before later loads too, each with the stage at which it is performed with respect to the scope. -/
def State.fenceOn (s : State) (ord scope : Nat) (ids : List (Nat × Nat)) : State :=
  let s := if ord % 2 = 1 then s.fenceAcq scope else s
  if ord < 2 then s
  else (s.askSystem s.iss.cx scope).modCur fun c =>
    { c with storeHold := c.storeHold ++ ids, loadHold := if ord = 3 then c.loadHold ++ ids else c.loadHold }
/-- At a scope of one core every store is performed as soon as it is issued. -/
def State.fenceAt (s : State) (ord scope : Nat) : State :=
  let cx := s.iss.cx
  s.fenceOn ord scope (if scope ≤ 1 then (s.heldOf cx).map fun h => (h.id, performed) else s.outstanding cx scope)
def execFence (g : Guard) (ord : BitVec 2) (scope : BitVec 3) (s : State) : Res :=
  s.guarded g fun s => s.unless s.engineStop fun s => s.fenceAt ord.toNat scope.toNat

/-- The stage at which a store counts as performed at a scope, for a `drain` (R246). A host store is written in host memory
as it leaves the package (see the log). -/
def Posted.stageAt (p : Posted) (scope : Nat) : Nat :=
  if scope = 3 && p.acc.die ≠ dieOf p.cx then 1 else p.stageFor scope
/-- Write-backs of `wbr` and `invr` in the queue, and, from package scope on, contributions not absorbed (R246, R377). -/
def State.engineWaits (s : State) (cx scope : Nat) : List (Nat × Nat) :=
  ((s.core (coreOf cx)).queue.filter fun e => e.cx == cx && (match e.cmd with
    | .range .. => true
    | .coll .. => decide (4 ≤ scope) && e.done == 0
    | _ => false)).map fun e => (e.id, match e.cmd with | .coll .. => 1 | _ => performed)
/-- `drain` (R246): a full fence, and from the end of its group on the core waits for the context's stores. -/
def execDrain (g : Guard) (scope : BitVec 3) (s : State) : Res :=
  s.guarded g fun s => s.unless s.engineStop fun s =>
    let cx := s.iss.cx
    let n := scope.toNat
    let ids := ((s.posted.filter fun p => p.cx == cx && p.entry.isNone).map fun p => (p.id, p.stageAt n)) ++
      s.engineWaits cx n
    let seen := if n ≤ 1 then [] else s.cur.seen.map fun i => (i, s.stageOf n i)
    let s := s.fenceOn 3 n (ids ++ seen ++ (s.heldOf cx).map fun h => (h.id, performed))
    { s with iss := { s.iss with drain := s.iss.drain ++ ids } }

/- Flush and signal, migration, ranges (R375 to R377) -/
/-- Accesses a token waits for: the context's stores to memory homed on h (R252, R375). -/
def State.fsigNeeds (s : State) (cx h : Nat) : List (Nat × Nat) :=
  ((s.posted.filter fun p => p.cx == cx && p.entry.isNone && p.hint.isNone && p.acc.level != 2 && p.acc.die == h).map fun p =>
    (p.id, performed)) ++
  ((s.heldOf cx).filter fun x => x.acc.level != 2 && x.acc.die == h && (match x.op with | .load _ => false | _ => true)).map fun x =>
    (x.id, performed)
/-- A `wbr` or `invr` has a write-back of a line homed on h to come (R375, R377): a line of the die, dirty or about to be so
by an own store issued before, lies in what is left of its range, or where it lies is not known yet. -/
def State.rangeOwes (s : State) (core h : Nat) (x : Entry) : Bool :=
  match x.cmd with
  | .range _ base len =>
    let (fn, pasid) := s.fnPasid (s.tenantOf x.cx)
    let fb := (s.reg rFrameAper).toNat / 2 ^ 40 * 2 ^ 40
    let lo := Nat.max (base / 64 * 64) ((base / 4096 + x.done) * 4096)
    let hi := (base + len - 1) / 64 * 64 + 63
    let entries := s.atc.filter fun e => e.owner == .bulk core && e.fn == fn && e.pasid == pasid
    -- device addresses of a frame's granule, by the requester's translations
    let places (f i : Nat) : List Nat := entries.filterMap fun e =>
      let t := fb + f * 65536 + i * 64
      if e.tbase ≤ t && t < e.tbase + 2 ^ e.lg then some (e.base + (t - e.tbase)) else none
    let due (f i : Nat) : Bool := (s.frame f).swm && homeDie (s.frame f).hbm == h && homeDie (s.frame f).hbm != dieOfCore core &&
      (match places f i with
        | [] => true
        | l => l.any fun a => decide (lo ≤ a) && decide (a ≤ hi))
    decide (len ≠ 0) && decide (x.done < (base + len - 1) / 4096 + 1 - base / 4096) &&
      (s.tier.stack.any (fun g => keyDie g.1 == dieOfCore core && isDirty g.2 && due g.2.frame g.2.idx) ||
       s.posted.any fun p => p.cx == x.cx && p.acc.level == 2 && decide (p.id < x.id) &&
         (match p.acc.frame with | some f => due f (p.acc.loc / 64) | none => false))
  | _ => false
def execFsig (g : Guard) (die : BitVec 2) (j k : SReg) (s : State) : Res :=
  s.guarded g fun s =>
    let cx := s.iss.cx
    let tok := (s.s j).toNat
    let obj := (s.s k).toNat
    let h := die.toNat
    s.command [s.alignStop [(tok, 16), (obj, 8)], s.windowStop s.cur.winAb [(tok, 16), (obj, 8)]] fun s =>
      let needs := if s.dieState h = 0 then [] else s.fsigNeeds cx h
      let q := (Map.get 0 s.cur.fsigSeq h + 1) % 2 ^ 32
      (s.modCur fun c => { c with fsigSeq := Map.set 0 c.fsigSeq h q }).enqueue (.fsig h q tok obj) needs

/-- A frame that a `mig` need not wait for. -/
def Frame.there (e : Frame) : Bool := match e.state with | .resident | .retired => true | _ => false
/-- What the frames stand at as a `mig` is issued (R168): one that is RESIDENT or RETIRED has been found so, and never slips;
another is waited for. -/
def State.seeFrames (s : State) (cmd cx deadline : Nat) : State :=
  s.modTier fun t => { t with migSeen := t.migSeen ++ [⟨cmd, cx, deadline, (t.frames.filter (·.2.there)).map (·.1), []⟩] }
/-- A command has no frame to come to any more. -/
def State.dropSeen (s : State) (id : Nat) : State := s.modTier fun t => { t with migSeen := t.migSeen.filter (·.cmd != id) }
/-- A `mig` counts a frame, and its slip when the frame came late (R168). -/
def State.countOne (s : State) (w : MigWait) (late : Bool) : State :=
  let s := s.arrival w.core w.lobj 65536
  if late then
    let s := s.modCtx w.cx fun c => { c with slip := c.slip + 1 }
    match s.tenantOf w.cx with
    | some t => s.bump (rSlip t) 31 0
    | none => s
  else s

def execMig (g : Guard) (j k : SReg) (n : BitVec 10) (deadline : W32) (s : State) : Res :=
  s.guarded g fun s =>
    let cx := s.iss.cx
    let a := (s.s j).toNat
    let obj := (s.s k).toNat
    let m := n.toNat
    let slot := s.iss.slot
    let bs := s.abSoon cx a (8 * m)
    let es := (List.range m).map fun i => BitVec.ofNat 64 (leAt bs (8 * i) 8)
    let bad (p : Word → Bool) (sub : Nat) : Option Stop := (es.find? p).map fun e => .trap ⟨0x05, sub, e⟩ slot
    s.command [s.alignStop [(a, 8)], s.windowStop s.cur.winAb [(a, 8 * m)],
        bad (fun e => e.toNat % 65536 != 0) 3, bad (fun e => !canonical e.toNat) 1, s.abStop obj 8 8] fun s =>
      let dl := s.cur.tick + deadline.toNat
      let id := s.nextId
      (s.enqueue (.mig es obj dl) []).seeFrames id cx dl

/-- `wbr` and `invr` (R377, R397): after the context's earlier stores; an `invr` holds every later access. One of length 0
does nothing. -/
def State.rangeOp (s : State) (inv : Bool) (a n : Word) : State :=
  let cx := s.iss.cx
  let lo : Int := a.toNat
  s.command [if n = 0 then none else s.rangeStop lo (lo + n.toNat - 1)] fun s =>
    let id := (s.nextId, performed)
    let t := s.enqueue (.range inv a.toNat n.toNat) (if n = 0 then [] else s.outstanding cx barrierScope)
    if inv && n ≠ 0 then t.modCur fun c => { c with loadHold := id :: c.loadHold, storeHold := id :: c.storeHold } else t
def execWbr (g : Guard) (j k : SReg) (s : State) : Res := s.guarded g fun s => s.rangeOp false (s.s j) (s.s k)
def execInvr (g : Guard) (j k : SReg) (s : State) : Res := s.guarded g fun s => s.rangeOp true (s.s j) (s.s k)

/- Collectives (R378, R379) -/
def collElem (etype : Nat) : Nat := if etype = 1 then 2 else 4
/-- The faults of 0x01 subcode 2 (R378). -/
def State.collBad (s : State) (fn : Nat) (bs : List Byte) : Bool :=
  let et := byteAt bs 12
  let sc := byteAt bs 13
  let p := leAt bs 14 2
  let p0 := leAt bs 16 2
  let cnt := leAt bs 8 4
  let me := s.regBits rUalIndex 9 0
  !(et == 0 || et == 1 || et == 4) || !(sc == 4 || sc == 5) || cnt == 0 || decide (2 ^ 20 < cnt) ||
  leAt bs 18 6 != 0 || leAt bs 32 32 != 0 || decide (5 < fn) || (decide (3 ≤ fn) && et != 4) ||
  (sc == 4 && (p != 0 || p0 != 0)) || (sc == 5 && !(decide (p0 ≤ me) && decide (me < p0 + p)))
def execColl (g : Guard) (fn : BitVec 4) (j k : SReg) (s : State) : Res :=
  s.guarded g fun s =>
    let cx := s.iss.cx
    let a := (s.s j).toNat
    let obj := (s.s k).toNat
    let bs := s.abSoon cx a 64
    let src := leAt bs 0 4
    let dst := leAt bs 4 4
    let cnt := leAt bs 8 4
    let et := byteAt bs 12
    let n := cnt * collElem et
    let grp := leAt bs 24 8
    s.unless (firstStop [s.queueStop, s.abStop a 64 64, s.fault (s.collBad fn.toNat bs) 0x01 2]) fun s =>
      s.unless (firstStop [s.alignStop [(src, collElem et), (obj, 8)],
          s.windowStop s.cur.winAb [(src, n), (dst, n), (obj, 8)]]) fun s =>
        let q := Map.get 0 s.cur.collSeq grp
        let s := s.modCur fun c => { c with collSeq := Map.set 0 c.collSeq grp (q + 1) }
        let tier := if byteAt bs 13 = 5 && 1 < leAt bs 14 2 && s.feature fPEER then 3 else 0
        (s.chargeCmd tier n).enqueue
          (.coll fn.toNat src dst cnt et (byteAt bs 13) (leAt bs 14 2) (leAt bs 16 2) grp obj q) (s.outstanding cx (byteAt bs 13))

/- Tokens, prefetch, accounts (R380 to R382) -/
def execTok (g : Guard) (j k : SReg) (s : State) : Res :=
  s.guarded g fun s => s.command [] (·.enqueue (.tok (lowBits 16 (s.s j)) ((s.s k).extractLsb' 0 32)) [])
def execPref (g : Guard) (lvl : BitVec 2) (j k : SReg) (s : State) : Res :=
  s.guarded g fun s => s.command [] (·.enqueue (.pref lvl.toNat (s.s j).toNat (s.s k).toNat) [])
/-- The balance is read at the account on some tick of the 200, after the charge of the group (R382). -/
def execAcct (g : Guard) (d : SReg) (s : State) : Res :=
  s.guarded g fun s =>
    let wait := 1 + Config.delay s.fresh % 199
    let s := { s with fresh := s.fresh + 1 }
    (s.after wait (.acct d.toNat (200 - wait))).awaitData 200

/- How commands go on -/
def State.entry? (s : State) (core id : Nat) : Option Entry := (s.core core).queue.find? (·.id == id)
def State.setEntry (s : State) (core : Nat) (e : Entry) : State :=
  s.modCore core fun k => { k with queue := k.queue.map fun x => if x.id = e.id then e else x }
/-- Units of a command, and how many it has done of them (R367). -/
def Cmd.total : Cmd → Nat
  | .bulk _ _ _ _ _ _ _ _ dims _ => dims.foldl (fun n d => n * d.1) 1
  | .mig es _ _ => es.length
  | .range _ base len => if len = 0 then 0 else (base + len - 1) / 4096 + 1 - base / 4096
  | .coll .. => 2
  | _ => 1
/-- A command has nothing more to send. -/
def Entry.sent (e : Entry) : Bool := e.stopped || (decide (e.cmd.total ≤ e.done) && e.carry.isEmpty)
/-- A command has delivered, counted and performed everything it sent (R367, R368). -/
def State.finished (s : State) (core : Nat) (e : Entry) : Bool :=
  e.started && e.sent && !s.posted.any (·.entry == some (core, e.id)) &&
    !s.tier.migs.any (·.cmd == e.id)
/-- A command may go on: what holds it is past, and every earlier command of its context has started (R367). -/
def State.mayGo (s : State) (core : Nat) (e : Entry) : Bool :=
  (s.open' e.needs).isEmpty &&
    ((s.core core).queue.takeWhile (·.id != e.id)).all fun x => x.cx != e.cx || x.started

/-- Memory address of an element: entry 0 innermost (R370). -/
def elemAddr : List (Nat × Int) → Int → Nat → Int
  | [], x, _ => x
  | (b, st) :: r, x, i => elemAddr r (x + ((i % b : Nat) : Int) * st) (i / b)
/-- Why a beat does not go. -/
inductive Halt where
  | none
  | wait
  | fail (t : Trap)
  deriving DecidableEq, Repr

/-- The stop of an engine beat: a missing translation or frame is asked for and waited for, a fault stops (R368). -/
def State.beatStop (s : State) (cx : Nat) (st : Stop) : State × Halt :=
  match st with
  | .trap t _ => (s, .fail t)
  | .park (.frame f) => (s.fetchFor f (s.tenantOf cx), .wait)
  | _ => (s, .wait)

/-- Bytes of elements of n bytes read from memory for a command, in order, until one does not go, with the longest transit they
take: what a load follows in its granule holds it, and another die is reached, and its bytes come back, a transit later each
(R31, R243). -/
def State.readBeats (s : State) (e : Entry) (pol n : Nat) : List Nat → List Byte → Nat → State × List Byte × Nat × Halt
  | [], acc, far => (s, acc, far, .none)
  | a :: as, acc, far =>
    match s.checkBy (.bulk (coreOf e.cx)) e.cx 7 (BitVec.ofNat 64 a) n pol .r false with
    | .stop s st => let (s, h) := s.beatStop e.cx st; (s, acc, far, h)
    | .zero s _ => s.readBeats e pol n as (acc ++ List.replicate n 0) far
    | .ok s ac =>
      let way := transit (dieOf e.cx) ac.die
      if !(s.open' (s.beforeLoad e.cx ac)).isEmpty || s.g < e.since + way then (s, acc, far, .wait)
      else
        let g := s.readAcc e.cx e.tick ac
        if g.dead then (g.s, acc, Nat.max far way, .fail ⟨0x0A, 2, BitVec.ofNat 64 a⟩)
        else if g.poison then (g.s, acc, Nat.max far way, .fail ⟨0x0A, 1, BitVec.ofNat 64 a⟩)
        else g.s.readBeats e pol n as (acc ++ g.bytes) (Nat.max far way)

/-- Bays of AB that become whole between two offsets of a delivery take its tag (R192, R372). -/
def State.tagBays (s : State) (core base lo hi tag : Nat) : State :=
  let bays := (List.range ((base + hi) / 1024 + 1 - (base + lo) / 1024)).map ((base + lo) / 1024 + ·)
  let whole := bays.filter fun b => decide (base ≤ 1024 * b) && decide (1024 * b + 1024 ≤ base + hi) &&
    decide (base + lo < 1024 * b + 1024)
  s.modCore core fun k => { k with bays := whole.foldl (fun m b => Map.set 0 m b tag) k.bays }
/-- Bytes of a load or multicast arrive at one core. -/
def State.deliverBytes (s : State) (core dkind base done tag lobj : Nat) (bs : List Byte) : State :=
  let n := bs.length
  if n = 0 then s
  else
    let s := if dkind = 0 then (s.putAb core (base + done) bs).tagBays core base done (done + n) tag
      else s.putBytes (bufKey core dkind (base + done)) bs
    s.arrival core lobj n

/-- What follows a piece of a command: more of it later, a stop, or nothing; its charge, once its tier is known. -/
def State.goOn (s : State) (core : Nat) (e : Entry) (h : Halt) : State :=
  match h with
  | .fail t =>
    let e := { e with stopped := true, carry := [] }
    let (s, e) := s.settle e true
    ((s.setEntry core e).dropSeen e.id).latchError e.cx t
  | _ =>
    let (s, e) := s.settle e e.sent
    let s := s.setEntry core e
    if e.sent then s else s.later (.landingArrival core e.id)

/-- The bytes read for a piece of a load or multicast, once they have come (R31): the whole piece is delivered in one step, or,
before the error that stops the command, what there is of it. -/
def State.arrivePiece (s : State) (core : Nat) (e : Entry) (dkind dbase pos want tag lobj : Nat) (cores : List Nat) : State :=
  if s.g < e.landAt then (s.setEntry core e).laterBy (e.landAt - s.g) (.landingArrival core e.id)
  else
    let n := if e.behind.isSome then e.carry.length else if want ≤ e.carry.length then want else 0
    let s := cores.foldl (fun s c => s.deliverBytes c dkind dbase pos tag lobj (e.carry.take n)) s
    s.goOn core { e with carry := e.carry.drop n, landAt := if n = 0 then e.landAt else 0, behind := none }
      (match e.behind with | some t => .fail t | none => .none)
/-- The next piece of a load or multicast: the rest of one 64-byte granule of the buffer, written in one step (R238,
R367). Elements are read until it is whole; one that stops the command leaves those before it delivered. -/
def State.loadPiece (s : State) (core : Nat) (e : Entry) (esize dkind pol tag lobj dbase : Nat) (dims : List (Nat × Int)) (x : Nat)
    (cores : List Nat) : State :=
  let sz := 2 ^ esize
  let pos := sz * e.done - e.carry.length
  let want := Nat.min (64 - (dbase + pos) % 64) (sz * e.cmd.total - pos)
  let k := if e.behind.isSome then 0 else (want - e.carry.length + sz - 1) / sz
  let (s, bs, far, h) := s.readBeats e (1 + pol) sz ((List.range k).map fun i => (elemAddr dims x (e.done + i)).toNat) [] 0
  let e := { e with
    done := e.done + bs.length / sz
    carry := e.carry ++ bs
    landAt := if far = 0 then e.landAt else Nat.max e.landAt (s.g + far)
    behind := match h with | .fail t => some t | _ => e.behind }
  if e.behind.isSome || want ≤ e.carry.length then s.arrivePiece core e dkind dbase pos want tag lobj cores else s.goOn core e .wait

/-- The elements of a store from one on that lie in its granule: the command writes a granule once (R367). -/
def granElems (addr : Nat → Int) (i n : Nat) : List Nat :=
  ((List.range (n - i)).map (i + ·)).filter fun j => addr j / 64 == addr i / 64
/-- The first element from one on whose granule no earlier element has sent. -/
def nextElem (addr : Nat → Int) (i n : Nat) : Option Nat :=
  ((List.range (n - i)).map (i + ·)).find? fun j => (List.range j).all fun k => addr k / 64 != addr j / 64
/-- The next piece of a store: every element of one granule, as one posted store with a mask of its bytes; each element
counts at the landing object (R251, R367, R372). -/
def State.storePiece (s : State) (core : Nat) (e : Entry) (esize pol dbase : Nat) (dims : List (Nat × Int)) (x : Nat) : State :=
  let cx := e.cx
  let sz := 2 ^ esize
  let addr := elemAddr dims x
  match nextElem addr e.done e.cmd.total with
  | none => s.goOn core { e with done := e.cmd.total } .none
  | some i =>
    let js := granElems addr i e.cmd.total
    if js.any fun j => (s.ctx cx).notReady (dbase + sz * j) sz then s.later (.landingArrival core e.id)
    else
      let a := BitVec.ofInt 64 (addr i)
      match s.checkBy (.bulk core) cx 7 a sz (1 + pol) .w false with
      | .stop s st => let (s, h) := s.beatStop cx st; s.goOn core { e with done := i } h
      | .zero s _ => s.goOn core { e with done := i } .wait
      | .ok s ac =>
        let ac := { ac with loc := ac.loc / 64 * 64, n := 64 }
        let put (b : List Byte × Nat) (j : Nat) : List Byte × Nat :=
          let o := (addr j % 64).toNat
          let bs := s.bytes (abKey core (dbase + sz * j)) sz
          let m := (2 ^ sz - 1) * 2 ^ o
          (mergeBytes b.1 (List.replicate o (0 : Byte) ++ bs) m, b.2 ||| m)
        let (bs, mask) := js.foldl put (List.replicate 64 (0 : Byte), 0)
        let (id, s) := s.newId
        let p : Posted := { id := id, cx := cx, owner := s.ownerOf cx, addr := a, acc := ac, pol := 1 + pol, bytes := bs, mask := mask,
                            needs := s.open' (s.sameGranule cx ac), stage := 0, sys := false, units := sz * js.length,
                            entry := some (core, e.id), hint := none, inject := none, tick := e.tick }
        ({ s with posted := s.posted ++ [p] }.later (.postedStorePerform id)).goOn core { e with done := i + 1 } .none

/-- Whether a frame that a `mig` comes to has been waited for already, and came late (R168): by what the command knows of it since
its issue; none when the frame is still to come. -/
def State.migFound (s : State) (cmd f : Nat) : Option Bool :=
  match s.tier.migSeen.find? (·.cmd == cmd) with
  | none => if (s.frame f).there then some false else none
  | some m =>
    if m.there.contains f then some false
    else match m.since.find? (·.1 == f) with
      | some (_, late) => some late
      | none => if (s.frame f).there then some false else none
/-- The next frame of a `mig` (R168, R376). -/
def State.migPiece (s : State) (core : Nat) (e : Entry) (a : Word) (lobj deadline : Nat) : State :=
  let (fn, pasid) := s.fnPasid (s.tenantOf e.cx)
  let next := { e with done := e.done + 1 }
  match s.translate (.bulk core) fn pasid a.toNat .r with
  | (s, .miss) => s.goOn core e .wait
  | (s, .refused) => s.goOn core e (.fail ⟨0x06, 1, a⟩)
  | (s, .hit tr) =>
    match s.classify tr with
    | .frame f _ =>
      let fr := s.frame f
      let mine : Bool := match s.tenantOf e.cx with | some t => fr.owned && fr.owner == t | none => true
      if !mine then s.goOn core e (.fail ⟨0x06, 2, a⟩)
      else
        let found := s.migFound e.id f
        let s := if e.cmd.total ≤ next.done then s.dropSeen e.id else s
        match found with
        | some late => (s.countOne ⟨core, e.id, e.cx, f, lobj, deadline⟩ late).goOn core next .none
        | none =>
          ((s.modTier fun t => { t with migs := t.migs ++ [⟨core, e.id, e.cx, f, lobj, deadline⟩] }).fetchFrame f).goOn core next .none
    | _ => s.goOn core e (.fail ⟨0x06, 2, a⟩)

/-- Lines of a core cache that hold granules from one key to another go. -/
def State.dropLines (s : State) (core k0 k1 : Nat) : State :=
  s.modCore core fun k => { k with cache := k.cache.filter fun e => decide (e.1 < k0) || decide (k1 < e.1) }
/-- The next page of a range (R377): dirty bytes of lines of SWM frames homed elsewhere go home, which they reach a transit after
the issue at the earliest (R31), and an `invr` drops the lines; the core cache drops its lines. -/
def State.rangePiece (s : State) (core : Nat) (e : Entry) (inv : Bool) (base len : Nat) : State :=
  let (fn, pasid) := s.fnPasid (s.tenantOf e.cx)
  let page := base / 4096 + e.done
  let next := { e with done := e.done + 1 }
  let lo := Nat.max base (4096 * page) % 4096 / 64
  let hi := Nat.min (base + len - 1) (4096 * page + 4095) % 4096 / 64
  let die := dieOfCore core
  match s.translate (.bulk core) fn pasid (4096 * page) .r with
  | (s, .miss) => s.goOn core e .wait
  | (s, .refused) => s.goOn core next .none
  | (s, .hit tr) =>
    match s.classify tr with
    | .frame f off =>
      let i0 := off / 64 + lo
      let i1 := off / 64 + hi
      let fr := s.frame f
      if fr.swm && fr.hbm < hbmFrames && decide (s.g < e.since + transit die (homeDie fr.hbm)) then s.goOn core e .wait else
      let s := s.dropLines core (f * 1024 + i0) (f * 1024 + i1)
      if fr.swm && homeDie fr.hbm != die then
        let hit (k : Nat) (x : Gran) : Bool := keyDie k == die && x.frame == f && decide (i0 ≤ x.idx) && decide (x.idx ≤ i1)
        let s := s.writeBackAll hit
        (if inv then s.dropGrans hit else s).goOn core next .none
      else s.goOn core next .none
    | .stack o => (s.dropLines core (2 ^ 70 + o / 64 + lo) (2 ^ 70 + o / 64 + hi)).goOn core next .none
    | .host h => (s.dropLines core (2 ^ 80 + h / 64 + lo) (2 ^ 80 + h / 64 + hi)).goOn core next .none

/-- Members of a crew. -/
def Crew.size (cr : Crew) : Nat := cr.c * cr.d
/-- A contribution is read and absorbed (R254, R379). The last of the package lets the result form. -/
def State.absorb (s : State) (core : Nat) (e : Entry) (src count etype group seq : Nat) : State :=
  let n := count * collElem etype
  if (s.ctx e.cx).notReady src n then s.later (.landingArrival core e.id)
  else
    let bs := s.bytes (abKey core src) n
    let part : Part := ⟨(s.ctx e.cx).member, core, e.id, bs⟩
    let size := ((s.crew? e.crew).map (·.size)).getD 1
    let s := s.setEntry core { e with done := 1 }
    let full (c : Coll) : Bool := c.parts.length == size
    match s.colls.find? fun c => c.crew == e.crew && c.group == group && c.seq == seq with
    | none =>
      let (id, s) := s.newId
      let c : Coll := ⟨id, e.crew, group, seq, [part]⟩
      let s := { s with colls := s.colls ++ [c] }
      if full c then s.later (.collResult id ⟨0, 0, 0, []⟩) else s
    | some c =>
      let c' := { c with parts := c.parts ++ [part] }
      let s := { s with colls := s.colls.map fun x => if x.id = c.id then c' else x }
      if full c' then s.later (.collResult c.id ⟨0, 0, 0, []⟩) else s

/-- LANDING_ARRIVAL: the next piece of a command: beats, a frame, a page, a contribution, a token (R250, R367). -/
def execLandingArrival (core id : Nat) (s : State) : Res :=
  match s.entry? core id with
  | none => .next s
  | some e =>
    .next <|
      if e.sent && e.started then s
      else if !s.mayGo core e then s.later (.landingArrival core id)
      else if e.sent then s.setEntry core { e with started := true }
      else
        let begun := e.started
        let e := { e with started := true }
        let s := s.setEntry core e
        match e.cmd with
        | .bulk op es dk pol cm tag lobj db dims x =>
          if op = 1 && (s.ctx e.cx).abStores.any (fun p => decide (p.seq < e.tick * 8 + 8)) then
            s.later (.landingArrival core id)
          else if op = 1 then s.storePiece core e es pol db dims x
          else s.loadPiece core e es dk pol tag lobj db dims x (if op = 2 then receivers core cm else [core])
        | .mig es lobj dl => s.migPiece core e (es.getD e.done 0) lobj dl
        | .range inv base len => s.rangePiece core e inv base len
        | .coll _ src _ count et _ _ _ grp _ seq =>
          if e.done = 1 then s
          else if (s.ctx e.cx).abStores.any (fun p => decide (p.seq < e.tick * 8 + 8)) then s.later (.landingArrival core id)
          else s.absorb core e src count et grp seq
        -- complete once Mayfly has handled the post (R380)
        | .tok seq token =>
          if begun then
            (if s.waitsFor (.event (.mayflyPost e.crew seq token)) then s.later (.landingArrival core id)
             else s.setEntry core { e with done := 1 })
          else (s.soon (.landingArrival core id)).soon (.mayflyPost e.crew seq token)
        | .fsig .. => s
        | .pref .. => s.setEntry core { e with done := 1 }

/-- ENGINE_COMMAND_COMPLETE: the entry frees (R367). -/
def execEngineCommandComplete (core id : Nat) (s : State) : Res :=
  match s.entry? core id with
  | none => .next s
  | some e =>
    .next (if s.finished core e then s.modCore core fun k => { k with queue := k.queue.filter (·.id != id) } else s)

/-- Where a posted store to a frame performs as things stand now (R160, R397). -/
def State.placed (s : State) (p : Posted) : Access :=
  match p.acc.frame with
  | none => p.acc
  | some f =>
    let x := s.place (dieOf p.cx) p.owner f p.acc.loc p.pol false
    { p.acc with level := x.1, die := x.2 }
/-- A posted store performs at home on h, as its stack has neither line nor way for it any more. -/
def State.homedNow (s : State) (p : Posted) (h : Nat) : Bool := (s.placed p).level != 2 && (s.placed p).die == h
/-- The token of an `fsig` may form: its needs are past, no write-back of a line homed on h is to come, nor a store issued
before it that performs there by now (R252, R375, R397); a die that is OFF answers at once. -/
def State.tokenForms (s : State) (core : Nat) (e : Entry) (h : Nat) : Bool :=
  s.mayGo core e && (s.dieState h == 0 ||
    (!((s.core core).queue.any fun x => x.cx == e.cx && decide (x.id < e.id) && s.rangeOwes core h x) &&
     !s.posted.any fun p => p.cx == e.cx && p.entry.isNone && p.hint.isNone && decide (p.id < e.id) && s.homedNow p h))
/-- FSIG_TOKEN (R252): the token is formed at the home die; a transit later it is written, then an arrival of one. -/
def execFsigToken (core id : Nat) (s : State) : Res :=
  match s.entry? core id with
  | none => .next s
  | some e =>
    match e.cmd with
    | .fsig h q tok obj =>
      .next <|
        if e.done = 1 then s
        else match e.formed with
          | none =>
            if s.tokenForms core e h then
              (s.setEntry core { e with started := true, formed := some s.timeNs }).laterBy
                (if s.dieState h = 0 then 0 else transit h (dieOfCore core)) (.fsigToken core id)
            else s.later (.fsigToken core id)
          | some ns =>
            let bs := leBytes 8 ns ++ leBytes 4 q ++ [BitVec.ofNat 8 h, 0, 0, 0]
            ((s.putAb core tok bs).arrival core obj 1).setEntry core { e with done := 1 }
    | _ => .next s

/- The reduction (R38, R379) -/
def signed32 (v : Nat) : Int := toSigned 32 v
/-- Combination of a left and a right element. -/
def combine (fn etype l r : Nat) : Nat :=
  if etype = 4 then
    match fn with
    | 0 => (l + r) % 2 ^ 32
    | 1 => if signed32 l < signed32 r then r else l
    | 2 => if signed32 r < signed32 l then r else l
    | 3 => l &&& r
    | 4 => l ||| r
    | _ => l ^^^ r
  else
    let f := if etype = 1 then bf16 else fp32
    let x := decodeNum f false l
    let y := decodeNum f false r
    if fn = 0 then (encodeNum f rne (x.add false y)).1
    else if x.isNaN then (if y.isNaN then f.nan else r)
    else if y.isNaN then l
    else if fn = 1 then (if x.lt y || (x.isZero && y.isZero && x.isNeg) then r else l)
    else (if y.lt x || (x.isZero && y.isZero && y.isNeg) then r else l)
/-- The identity of a combine. -/
def collIdentity (fn etype : Nat) : Nat :=
  if etype = 4 then
    match fn with
    | 1 => 2 ^ 31
    | 2 => 2 ^ 31 - 1
    | 3 => 2 ^ 32 - 1
    | _ => 0
  else
    let sign := if etype = 1 then 2 ^ 15 else 2 ^ 31
    let inf := if etype = 1 then 0x7F80 else 0x7F800000
    match fn with
    | 1 => sign + inf
    | 2 => inf
    | _ => sign
def elemsOf (n : Nat) (bs : List Byte) : List Nat := (List.range (bs.length / n)).map fun i => leAt bs (n * i) n
/-- One round of the tree: neighbours combine, a last one without a partner passes (R38). -/
def treeRound (f : List Nat → List Nat → List Nat) : List (List Nat) → List (List Nat)
  | a :: b :: r => f a b :: treeRound f r
  | l => l
def tree (f : List Nat → List Nat → List Nat) : Nat → List (List Nat) → List Nat
  | 0, l => l.headD []
  | k + 1, l => if l.length ≤ 1 then l.headD [] else tree f k (treeRound f l)
/-- The exchange among packages of R38, from their partial results in order; every package holds this result. -/
def exchangeRound (f : List Nat → List Nat → List Nat) (d : Nat) (l : List (List Nat)) : List (List Nat) :=
  (List.range l.length).map fun i =>
    let j := i ^^^ d
    let x := l.getD i []
    let y := l.getD j []
    if i < j then f x y else f y x
def exchange (f : List Nat → List Nat → List Nat) (l : List (List Nat)) : List Nat :=
  let m := 2 ^ log2 l.length
  let low := (List.range m).map fun i =>
    match l[i + m]? with
    | some r => f (l.getD i []) r
    | none => l.getD i []
  ((List.range (log2 l.length)).foldl (fun l s => exchangeRound f (2 ^ s) l) low).headD []

/-- A participant's value under rank 0's fields: its contribution, or what its SRC holds in that size, or the identity
with an error latched (R379). -/
def State.partValue (s : State) (p : Part) (fn etype count : Nat) : State × List Nat :=
  let n := count * collElem etype
  match s.entry? p.core p.entry with
  | none => (s, List.replicate count (collIdentity fn etype))
  | some e =>
    match e.cmd with
    | .coll fn' src _ count' et' .. =>
      if fn' = fn && et' = etype && count' = count then (s, elemsOf (collElem etype) p.bytes)
      else if src % collElem etype ≠ 0 || !inWindow (s.ctx e.cx).winAb src n then
        (s.latchError e.cx ⟨0x07, 2, BitVec.ofNat 64 (firstOut (s.ctx e.cx).winAb src)⟩, List.replicate count (collIdentity fn etype))
      else (s, elemsOf (collElem etype) (s.bytes (abKey p.core src) n))
    | _ => (s, [])
/-- A participant takes the result at its DST (R379). -/
def State.collDeliver (s : State) (p : Part) (bs : List Byte) : State :=
  match s.entry? p.core p.entry with
  | none => s
  | some e =>
    match e.cmd with
    | .coll _ _ dst _ _ _ _ _ _ lobj _ =>
      let w := (s.ctx e.cx).winAb
      let s := if inWindow w dst bs.length then (s.putAb p.core dst bs).arrival p.core lobj bs.length
        else s.latchError e.cx ⟨0x07, 2, BitVec.ofNat 64 (firstOut w dst)⟩
      s.setEntry p.core { e with done := 2 }
    | _ => s
def insertRank (p : Part) : List Part → List Part
  | [] => [p]
  | q :: qs => if p.rank < q.rank then p :: q :: qs else q :: insertRank p qs
/-- The packages, by index, with which a package exchanges partial results over P packages (R38). -/
def exchangePeers (p i : Nat) : List Nat :=
  let m := log2 p
  if 2 ^ m ≤ i then [i - 2 ^ m]
  else (if i + 2 ^ m < p then [i + 2 ^ m] else []) ++ (List.range m).map fun r => i ^^^ 2 ^ r
/-- A package's partial result goes to its peers; the address that picks the plane (R34) is left open (see the log). None goes
while no port is up. -/
def State.askPeers (s : State) (pkgs : List Nat) (n : Nat) : State :=
  pkgs.foldl (fun s p => let (a, s) := s.free; s.askPeer p (a.toNat / 64 * 64) n true) s
/-- COLL_RESULT (R33, R38): `peers` counts with more than one package only. -/
def execCollResult (coll : Nat) (peers : Others) (s : State) : Res :=
  match s.colls.find? (·.id == coll) with
  | none => .next s
  | some c =>
    let parts := c.parts.foldl (fun l p => insertRank p l) []
    let full : Bool := parts.length == ((s.crew? c.crew).map (·.size)).getD 1
    match (parts.head?.bind fun p => s.entry? p.core p.entry).map Entry.cmd with
    | some (.coll fn0 _ _ count0 et0 scope np p0 _ _ _) =>
      let multi : Bool := scope == 5 && decide (1 < np)
      let idx := s.regBits rUalIndex 9 0 - p0
      let (fn, et, count) := if multi && idx != 0 then (peers.fn, peers.etype, peers.count) else (fn0, et0, count0)
      let n := count * collElem et
      if !full || (multi && (peers.bufs.length != np || s.regBits rUalState 35 0 == 0 ||
          (peers.bufs.zipIdx).any fun x => x.2 != idx && x.1.length != n)) then .next s
      else
        let f (a b : List Nat) : List Nat := List.zipWith (combine fn et) a b
        let (s, vals) := parts.foldl (fun (s, vs) p => let (s, v) := s.partValue p fn et count; (s, vs ++ [v])) (s, [])
        let own := tree f vals.length vals
        let s := if multi then s.askPeers ((exchangePeers np idx).map (p0 + ·)) n else s
        let res := if multi then exchange f ((peers.bufs.map (elemsOf (collElem et))).set idx own) else own
        let bs := res.flatMap (leBytes (collElem et))
        let s := parts.foldl (fun s p => s.collDeliver p bs) s
        .next { s with colls := s.colls.filter (·.id != coll) }
    | _ => .next s

end Sys2Proof.Machine
end

