-- ==== Sys2Proof/Machine/CoreEvents.lean ====
section
/-! DEFINITION. What happens at a core between its groups (08_cores.md): results land, freezes end, contexts leave the
width, block, park and come back, watchdogs and events, posted stores perform, members retire. Each event has the
condition under which it acts; otherwise it leaves the state as it is. -/

namespace Sys2Proof.Machine

/-- A context becomes READY now (R180, R181). -/
def State.wake (s : State) (cx : Nat) : State :=
  s.modCtx cx fun c => { c with mode := .ready, since := s.g, blockOn := none, parkOn := none, wcount := 0 }
/-- The width falls free. -/
def State.release (s : State) (cx : Nat) : State :=
  (s.modCore (coreOf cx) fun k => { k with lastCx := cx % 4 }).modCtx cx fun c => { c with leaving := none, yielded := 0 }
def State.frozen (s : State) (core : Nat) : Bool := !(s.core core).freeze.isEmpty
/-- A contribution whose source in AB waits for results of its context that have not landed (R193, R254, R342). -/
def State.sourceDue (s : State) (e : Entry) : Bool :=
  match e.cmd with
  | .coll _ src _ count et .. =>
    e.done == 0 && ((s.ctx e.cx).abStores.any (fun p => decide (p.seq < e.tick * 8 + 8)) || (s.ctx e.cx).notReady src (count * collElem et))
  | _ => false
/-- Whether the ticks of a core go on: it is not frozen, or a `drain` alone freezes it, and waits for a contribution whose source
is still to land; no group issues meanwhile (R246; see the log). -/
def State.ticking (s : State) (core : Nat) : Bool :=
  (s.core core).freeze.all fun f => match f with
    | .drain _ ids => (s.core core).queue.any fun e => ids.any (·.1 == e.id) && s.sourceDue e
    | _ => false

/- Landing (R194, R357) -/
/-- A landed write, or a unit's read on its tick. -/
def State.landAct (s : State) (cx : Nat) (p : Pend) : State :=
  let core := coreOf cx
  let add (s : State) (n : Nat) (a : Act) : State :=
    s.modCtx cx fun c => { c with pend := insertPend ⟨p.land + n, p.seq, p.fu, a⟩ c.pend }
  match p.act with
  | .sreg r v => s.modCtx cx (·.setS r v)
  | .pred n b => s.modCtx cx (·.setP n b)
  | .window b => s.modCtx cx (·.setWindow b)
  | .rotate b => s.modCtx cx fun c => c.setWindow (c.preds.extractLsb' 8 7 ++ (if b then 1 else 0 : BitVec 1))
  | .lanes vs => s.modCtx cx (·.setLanes vs)
  | .mp n v => s.modCtx cx fun c => { c with mp := Map.set 0 c.mp n v }
  | .lc n v => s.modCtx cx fun c => { c with lc := Map.set 0 c.lc n v }
  | .ec v => s.modCtx cx fun c => { c with ec := v }
  | .fmt v => s.modCtx cx fun c => { c with f := v }
  | .flags fl => s.modCtx cx fun c => { c with flags := c.flags ||| fl }
  | .sys n v => s.sysWrite cx n v
  | .ab .. | .larm .. => s.landAb cx p
  | .acct d gap =>
    let (v, s) := match s.tenantOf cx with
      | some t => (s.reg (rAcctBal t), s)
      | none => s.free
    s.modCtx cx fun c => { c with pend := insertPend ⟨p.land + gap, p.seq, .none, .sreg d v⟩ c.pend }
  | .cb a bs => s.putBytes (cbKey core a) bs
  | .mmaDone => s.modCtx cx fun c => { c with mmaDone := (c.mmaDone + 1) % 2 ^ 64 }
  | .mmaFetch id a n ma cb fresh bank => add s 31 (.mmaAcc id (s.bytes (abKey core a) n) ma cb fresh bank)
  | .mmaAcc id row ma cb fresh bank =>
    let old := s.bytes (cbKey core cb) 512
    let new := mmaRowBytes ((s.ctx cx).bankOf bank) ma row old fresh
    let keep (m : MmaRun) : MmaRun := if m.id = id then { m with old := Map.put m.old cb old } else m
    add (s.modCtx cx fun c => { c with mmas := c.mmas.map keep }) 1 (.cb cb new)
  | .rotRow cb n => add s 32 (.cb cb (rotRowBytes n (s.bytes (cbKey core cb) 512)))
  | .drnRow cb a sigma df f => add s 12 (.ab a (drnRowBytes f df sigma (s.bytes (cbKey core cb) 512)))
  | .load .. | .arrive .. | .poison .. | .denied .. => s
/-- Reads of units, which see every write that lands on their tick. -/
def Act.captures : Act → Bool
  | .mmaFetch .. | .mmaAcc .. | .rotRow .. | .drnRow .. | .acct .. => true
  | _ => false
/-- Loads whose data is due and has not come (R197). -/
def State.lateLoads (s : State) (cx : Nat) (due : List Pend) : List Nat :=
  due.filterMap fun p => match p.act with
    | .arrive id _ => if (s.core (coreOf cx)).pending.contains id then some id else none
    | _ => none
/-- The fault that a load or atomic raises at its landing: poison, or a RETIRED frame, or one that is not its tenant's (R163,
R395), with its slot. -/
def Act.fault : Act → Option (Trap × Nat)
  | .poison a sl sub => some (⟨0x0A, sub, a⟩, sl)
  | .denied a sl => some (⟨0x06, 2, a⟩, sl)
  | _ => none
/-- A fault that a load raises at its landing waits for the end of a `realign` wait, which is one wait of its group (R30,
R395). -/
def Ctx.isDue (c : Ctx) (p : Pend) : Bool := decide (p.land ≤ c.tick) && !(c.realign.isSome && p.act.fault.isSome)
def Ctx.due (c : Ctx) : List Pend := c.pend.filter c.isDue
/-- Whether results of a HOLDING context are due and its core counts ticks. -/
def State.landing? (s : State) (cx : Nat) : Bool :=
  (s.ctx cx).mode == .holding && s.ticking (coreOf cx) && !(s.ctx cx).due.isEmpty
/-- What is due lands: writes in issue order, then reads; late data freezes the core instead; the fault of a load is then
raised before the next group (R194, R197, R395). -/
def State.landDue (s : State) (cx : Nat) : State :=
  let due := (s.ctx cx).due
  match s.lateLoads cx due with
  | [] =>
    let s := s.modCtx cx fun c => { c with pend := c.pend.filter fun p => !c.isDue p }
    let s := (due.filter (!·.act.captures)).foldl (fun s p => s.landAct cx p) s
    let s := (due.filter (·.act.captures)).foldl (fun s p => s.landAct cx p) s
    match due.findSome? (·.act.fault) with
    | none => s
    | some (t, sl) =>
      let c := s.ctx cx
      s.deliver cx t sl c.pc (c.tick + c.idle) c.rest
  | ids => s.modCore (coreOf cx) fun k => { k with freeze := ids.map (Freeze.late cx) ++ k.freeze }
/-- RESULT_LAND. -/
def execResultLand (cx : Nat) (s : State) : Res := .next (if s.landing? cx then s.landDue cx else s)

/- Freezes (R197, R198, R245, R246) -/
def State.cleared (s : State) (core : Nat) (f : Freeze) : Bool :=
  match f with
  | .late _ id => !(s.core core).pending.contains id
  | .slice d sl => !(s.tier.waking.contains (24 * d + sl / 16) || s.tier.copying.contains (384 * d + sl))
  | .scrub f => (s.frame f).state != .scrub
  | .drain _ ids => ids.all fun (i, st) => s.reached i st
/-- FREEZE_END: causes that have cleared go. -/
def execFreezeEnd (core : Nat) (s : State) : Res :=
  .next (s.modCore core fun k => { k with freeze := k.freeze.filter fun f => !s.cleared core f })
/-- What came of a held access takes the place it kept among the pending actions, in a snapshot too (R201, R245). -/
def Act.resolve (held : Act) (id : Nat) (a : Act) : Act :=
  match held with
  | .load i d => if i = id then (match a with | .sreg _ v => .sreg d v | a => a) else .load i d
  | b => b
def Ctx.resolve (c : Ctx) (id : Nat) (a : Act) : Ctx :=
  let fix (p : Pend) : Pend := { p with act := p.act.resolve id a }
  { c with pend := c.pend.map fix, snap := c.snap.map fun sn => { sn with pend := sn.pend.map fix } }
/-- A held access ends: its register's value, or its fault, lands. -/
def State.endHeld (s : State) (h : Held) (a : Act) : State :=
  (s.modCore (coreOf h.cx) fun k =>
    { k with held := k.held.filter (·.id != h.id), pending := k.pending.filter (· != h.id) }).modCtx h.cx (·.resolve h.id a)
/-- A tenant's access to a frame that is not the tenant's (any more). -/
def State.notOwned (s : State) (f : Nat) (t : Option Nat) : Bool :=
  match t with
  | some t => !(s.frame f).owned || (s.frame f).owner != t
  | none => false
/-- A held access performs, when its frame is still its tenant's and can serve it (R163); errors are those of R395. -/
def State.performHeld (s : State) (h : Held) : State :=
  let again := s.later (.loadDataReturn h.cx h.id)
  let go (s : State) : State :=
    match s.performOp h with
    | (s, .value v) => s.endHeld h (.sreg 0 v)
    | (s, .poison) => s.endHeld h (.poison h.addr h.slot 1)
    | (s, .dead) => s.endHeld h (.poison h.addr h.slot 2)
  match h.acc.frame with
  | none => go s
  | some f =>
    if s.notOwned f (s.ownerOf h.cx) then s.endHeld h (.denied h.addr h.slot)
    else match (s.frame f).state with
      | .resident => go s
      | .retired => s.endHeld h (.poison h.addr h.slot 2)
      | .absent => (s.fetchFor f (s.ownerOf h.cx)).later (.loadDataReturn h.cx h.id)
      | .scrub => (match h.op with | .load _ => go s | _ => again)
      | .inFlight => again
/-- A held access with the place at which it performs as things stand now (R160); an atomic that has to go to another die than it
went to reaches it a transit later (R31). -/
def State.replaced (s : State) (h : Held) : Held :=
  match h.acc.frame with
  | none => h
  | some f =>
    let x := s.place (dieOf h.cx) (s.ownerOf h.cx) f h.acc.loc h.pol (h.acc.level == 0)
    let h' := { h with acc := { h.acc with level := x.1, die := x.2 } }
    if x.2 = h.acc.die then h' else { h' with start := Nat.max h.start (s.g + h'.way) }
def State.setHeld (s : State) (h : Held) : State :=
  s.modCore (coreOf h.cx) fun k => { k with held := k.held.map fun x => if x.id = h.id then h else x }
/-- LOAD_DATA_RETURN: the data of a load or atomic has come; one that is held performs first, once what it must follow has. -/
def execLoadDataReturn (cx id : Nat) (s : State) : Res :=
  .next <|
    match (s.core (coreOf cx)).held.find? (·.id == id) with
    | none => s.modCore (coreOf cx) fun k => { k with pending := k.pending.filter (· != id) }
    | some h =>
      let h := s.replaced h
      if s.opReady h h.writes then s.performHeld h else (s.setHeld h).laterBy (h.start - s.g) (.loadDataReturn cx id)

/- Leaving the width and coming back (R180 to R182, R200) -/
/-- The fill of a bank is under way (R355). -/
def Bank.filling (b : Bank) (tick : Nat) : Bool := decide (tick < b.ready) && decide (b.ready < farTick)
/-- Every result the context has in flight has landed (R182). -/
def Ctx.quiet (c : Ctx) : Bool := c.pend.isEmpty && !c.bank0.filling c.tick && !c.bank1.filling c.tick
def State.drained (s : State) (cx : Nat) : Bool :=
  let c := s.ctx cx
  c.mode == .holding && c.leaving.isSome && c.quiet && !s.frozen (coreOf cx)
/-- DRAIN_COMPLETE. -/
def execDrainComplete (cx : Nat) (s : State) : Res :=
  let c := s.ctx cx
  .next <|
    if s.drained cx then
      match c.leaving with
      | some (.block b) => (s.release cx).modCtx cx fun c => { c with mode := .blocked, blockOn := some b }
      | some .retire =>
        ((s.askSystem cx 6).release cx).modCtx cx fun c => { c with mode := .blocked, blockOn := some .retiring, snap := none }
      | some .turn => (s.release cx).wake cx
      | some (.realign t d) => (s.modCtx cx fun c => { c with leaving := none, realign := some ⟨t, d⟩ })
      | none => s
    else s
/-- A group boundary at which the next group would issue (R181, R209). -/
def Ctx.boundary (c : Ctx) : Bool :=
  c.mode == .holding && c.idle == 0 && c.leaving.isNone && c.realign.isNone && c.treturn.isNone
def State.turnOver (s : State) (cx : Nat) : Bool := (s.ctx cx).boundary && decide (64 ≤ (s.ctx cx).yielded) && s.otherReady cx
/-- TURN_LIMIT_EXPIRY. -/
def execTurnLimitExpiry (cx : Nat) (s : State) : Res :=
  .next (if s.turnOver cx then s.modCtx cx fun c => { c with leaving := some .turn } else s)

/-- An unmasked power event is pending and may enter a handler (R209). -/
def State.power? (s : State) (cx : Nat) : Bool :=
  let c := s.ctx cx
  c.ev11 && c.m11 && s.feature fPOWER && !c.inh
/-- Whether what a blocked group waits for has come (R180). -/
def State.blockOver (s : State) (cx : Nat) : Bool :=
  let c := s.ctx cx
  c.mode == .blocked &&
  (match c.blockOn with
    | some .retiring => false
    | none => false
    | some .queue => decide ((s.core (coreOf cx)).queue.length < 16) || s.power? cx
    | some (.landing a ph) => landingFree (s.landing (coreOf cx) a) ph || c.engErr.isSome || s.power? cx
    | some (.barrier tag) => !s.barrierHeld cx tag || s.power? cx
    | some (.unit fu) => !((contextsOf (coreOf cx)).any fun x => x != cx && (s.ctx x).keeps fu) || s.power? cx)
/-- UNBLOCK. -/
def execUnblock (cx : Nat) (s : State) : Res := .next (if s.blockOver cx then s.wake cx else s)
/-- Whether what a parked context waits for has come (R200). -/
def State.parkOver (s : State) (cx : Nat) : Bool :=
  let c := s.ctx cx
  c.mode == .parked &&
  (match c.parkOn with
    | none => false
    | some (.page p perm) =>
      let (fn, pasid) := s.fnPasid (s.tenantOf cx)
      !(s.ats.any fun r => r.owner == .core (coreOf cx) && r.fn == fn && r.pasid == pasid && r.page == p && r.perm == perm)
    | some (.frame f) =>
      let e := s.frame f
      match e.state with
      | .inFlight => false
      | .absent => !s.tier.fetch.contains f
      | _ => true)
/-- PARK_RESUME. -/
def execParkResume (cx : Nat) (s : State) : Res := .next (if s.parkOver cx then s.wake cx else s)

/- Watchdog and events (R209, R210) -/
def State.watchdogOver (s : State) (cx : Nat) : Bool :=
  let c := s.ctx cx
  c.mode == .blocked && decide (c.wdog.toNat ≤ c.wcount) &&
  (match c.blockOn with | some (.landing ..) | some (.barrier _) => true | _ => false)
/-- WATCHDOG_EXPIRY. -/
def execWatchdogExpiry (cx : Nat) (s : State) : Res :=
  .next <|
    if s.watchdogOver cx then
      let t : Trap := match (s.ctx cx).blockOn with
        | some (.landing a _) => ⟨0x08, 1, BitVec.ofNat 64 a⟩
        | some (.barrier tag) => ⟨0x08, 2, BitVec.ofNat 64 tag⟩
        | _ => ⟨0x08, 1, 0⟩
      (s.wake cx).modCtx cx fun c => { c with pendFault := some t }
    else s
/-- A matrix, transposer or drain-converter routine of the context is in flight (R202, R209). -/
def Ctx.routine (c : Ctx) : Bool :=
  c.pend.any (fun p => suspendable p.fu) || c.busy.any (fun e => decide (5 ≤ e.1) && decide (c.tick < e.2)) ||
    c.bank0.filling c.tick || c.bank1.filling c.tick
/-- Whether the tenant of a context has exhausted its account (R121). -/
def State.broke (s : State) (cx : Nat) : Bool :=
  match s.tenantOf cx with
  | none => false
  | some t => s.pilot.broke.contains t
/-- An event is taken at a group boundary with no routine in flight, be it the boundary before the rest of a group that has
issued in part (R200); a pending 0x0B or 0x08 goes first (R209). A power event that is masked by then stays pending (see the
log). -/
def State.eventDue (s : State) (cx : Nat) : Bool :=
  let c := s.ctx cx
  c.boundary && !c.inh && !c.routine && c.pendFault.isNone && !s.broke cx && (c.ev10 || s.power? cx)
/-- ASYNC_EVENT_ENTRY: a pre-emption request stops the context for its save; a power event enters the handler. -/
def execAsyncEventEntry (cx : Nat) (s : State) : Res :=
  .next <|
    if !s.eventDue cx then s
    else
      let c := s.ctx cx
      if c.ev10 then ((s.release cx).wake cx).modCtx cx fun c => { c with halted := true }
      else (s.modCtx cx fun c => { c with ev11 := false }).deliver cx ⟨0x11, 0, 0⟩ 0 c.pc c.tick c.rest

/-- BARRIER_RELEASE (R40). -/
def execBarrierRelease (crew : Nat) (s : State) : Res :=
  match s.crew? crew with
  | none => .next s
  | some cr =>
    .next <| match cr.release with
      | none => s
      | some r => if s.g < r then s
          else s.setCrew crew { cr with phase := cr.phase + 1, arrivals := [], release := none }

/-- REALIGN_RESUME (R30): the wait ends; s[d] takes the lateness. -/
def State.realignOver (s : State) (cx : Nat) : Bool :=
  let c := s.ctx cx
  c.mode == .holding && c.idle == 0 && !s.frozen (coreOf cx) &&
  (match c.realign with | none => false | some r => decide (r.target ≤ s.g))
def execRealignResume (cx : Nat) (s : State) : Res :=
  .next <|
    if s.realignOver cx then
      s.modCtx cx fun c => match c.realign with
        | none => c
        | some r => ({ c with realign := none }).setS r.d (BitVec.ofNat 64 (s.g - r.target))
    else s

/- Posted stores (R32, R243, R246) -/
def State.dropPosted (s : State) (id : Nat) : State := { s with posted := s.posted.filter (·.id != id) }
def State.stagePosted (s : State) (id stage : Nat) : State :=
  { s with posted := s.posted.map fun p => if p.id = id then { p with stage := stage } else p }
/-- A store has performed: its command's object counts its bytes (R251). -/
def State.performed (s : State) (p : Posted) : State :=
  let s := s.dropPosted p.id
  match p.entry with
  | none => s
  | some (core, id) =>
    match s.entry? core id with
    | some e => (match e.cmd with
        | .bulk _ _ _ _ _ _ lobj _ _ _ => s.arrival core lobj p.units
        | _ => s)
    | none => s
/-- A store that meets an error latches it, and stops its command (R368, R395). -/
def State.failedStore (s : State) (p : Posted) (kind sub : Nat) : State :=
  let s := (s.dropPosted p.id).latchError p.cx ⟨kind, sub, p.addr⟩
  match p.entry with
  | none => s
  | some (core, id) =>
    match s.entry? core id with
    | some e => s.setEntry core { e with stopped := true, carry := [] }
    | none => s
/-- A store's bytes at its level: the core cache's copy takes those of a b-slot store (R236, R239); an `inject` leaves its
mark (R303). -/
def State.storePosted (s : State) (p : Posted) : State :=
  match p.inject with
  | some kind => (s.markGranule p.cx p.acc kind).performed p
  | none =>
    let core := coreOf p.cx
    let g := s.storeAcc p.owner core p.acc p.bytes p.mask
    if g.poison then g.s.failedStore p 0x0A 1
    else if g.dead then g.s.failedStore p 0x0A 2
    else (if p.entry.isNone then
      (g.s.updateLine core p.acc (granOf p.acc p.bytes) (granMask p.acc p.mask)).markBefore p.cx p.id p.acc else g.s).performed p
/-- A store performs when its frame can take it. A frame that is no longer the owner's takes none: an engine command stops
there (R368), a b-slot store goes unperformed (see the log). -/
def State.performAt (s : State) (p : Posted) : State :=
  match p.acc.frame with
  | none => s.storePosted p
  | some f =>
    if s.notOwned f p.owner then
      (if p.entry.isSome then s.failedStore p 0x06 2 else s.dropPosted p.id)
    else match (s.frame f).state with
      | .resident => s.storePosted p
      | .retired => s.failedStore p 0x0A 2
      | .absent => (s.fetchFor f p.owner).later (.postedStorePerform p.id)
      | _ => s.later (.postedStorePerform p.id)
/-- The next stage of a host store: it enters the collective die; it leaves the package and is written, where an engine's store
is complete; when a wait asks for it, one read of length zero follows the context's stores that have left, and as that
comes back they are visible in the system (R246). -/
def State.performHost (s : State) (p : Posted) : State :=
  if s.fnStopped (s.fnPasid p.owner).1 then s.dropPosted p.id else
  match p.stage with
  | 0 => (s.stagePosted p.id 1).later (.postedStorePerform p.id)
  | 1 =>
    let t := (s.storeAcc p.owner (coreOf p.cx) p.acc p.bytes p.mask).s
    let t := if p.entry.isNone then t.markBefore p.cx p.id p.acc else t
    if p.entry.isSome then t.performed p
    else if p.sys then (t.stagePosted p.id 2).later (.postedStorePerform p.id)
    else t.stagePosted p.id 2
  | 2 =>
    if !p.sys then s
    else
      let (fn, pasid) := s.fnPasid p.owner
      let go (q : Posted) : Bool := q.cx == p.cx && q.stage == 2 && q.sys
      let s := s.send (.zeroRead fn pasid)
      let ids := (s.posted.filter go).map (·.id)
      let up (q : Posted) : Posted := if go q then { q with stage := 3 } else q
      ids.foldl (fun s i => s.later (.postedStorePerform i)) { s with posted := s.posted.map up }
  | _ => s.performed p
/-- POSTED_STORE_PERFORM: the next stage of a posted store, at the place where it performs by now. A store to another die enters
the collective die first, and performs a transit later at the earliest (R31, R160). -/
def execPostedStorePerform (id : Nat) (s : State) : Res :=
  match s.posted.find? (·.id == id) with
  | none => .next s
  | some p =>
    .next <|
      if !(s.open' p.needs).isEmpty then s.later (.postedStorePerform id)
      else match p.hint with
        | some (part, w) =>
          let s := s.dropPosted id
          if part < 32 then
            { s with bin := { s.bin with hints := Map.set 0 s.bin.hints (8 * part + w) (BitVec.ofNat 32 (leAt p.bytes 0 4)) } }
          else s
        | none =>
          let p := { p with acc := s.placed p }
          if p.acc.die = 4 then s.performHost p
          else if p.acc.die ≠ dieOf p.cx && p.stage = 0 then
            (s.stagePosted id 1).laterBy (transit (dieOf p.cx) p.acc.die) (.postedStorePerform id)
          else s.performAt p

/- Retirement (R178, R299, R368) -/
def State.retireOver (s : State) (cx : Nat) : Bool :=
  (s.ctx cx).mode == .blocked && (s.ctx cx).blockOn == some .retiring &&
  !(s.core (coreOf cx)).queue.any (·.cx == cx) && !(s.core (coreOf cx)).held.any (·.cx == cx) && !s.posted.any (·.cx == cx)
/-- MEMBER_RETIRE_COMPLETE: the context falls IDLE; an error still latched ends the crew. -/
def execMemberRetireComplete (cx : Nat) (s : State) : Res :=
  .next <|
    if !s.retireOver cx then s
    else match (s.ctx cx).crew with
      | none => s.idleCtx cx
      | some id =>
        match (s.ctx cx).engErr with
        | some t => s.failCrew id t.kind (coreOf cx)
        | none =>
          match s.crew? id with
          | none => s.idleCtx cx
          | some cr => (s.setCrew id { cr with retired := cx :: cr.retired }).idleCtx cx

/-- SHADOW_BANK_READY: the fill of a bank is over (R355). -/
def execShadowBankReady (cx : Nat) (s : State) : Res :=
  .next (s.modCtx cx fun c =>
    let done (b : Bank) : Bank := if b.ready ≤ c.tick then { b with ready := 0 } else b
    { c with bank0 := done c.bank0, bank1 := done c.bank1 })

/-- ILLEGAL_ENCODING: fault 0x01 at issue with the subcode of R267, naming a slot. -/
def execIllegalEncoding (slot sub : BitVec 8) (s : State) : Res := .next (s.halt (.trap ⟨0x01, sub.toNat, 0⟩ slot.toNat))

end Sys2Proof.Machine
end

