-- ==== Sys2Proof/Machine/Binnacle.lean ====
section
/-! DEFINITION. The Binnacle (04_binnacle.md): the words of a law, the loader, the frame's snapshot and slots, composition,
apply, droop, and the power of slice groups (R73 to R106, R159, R398 to R400). -/

namespace Sys2Proof.Machine

def State.modBin (s : State) (f : Bin → Bin) : State := { s with bin := f s.bin }
def Law.q' (l : Law) (r : BitVec 4) : Int := (Map.get (0 : W32) l.q r.toNat).toInt
def Law.setQ (l : Law) (r : BitVec 4) (v : Int) : Law := { l with q := Map.set 0 l.q r.toNat (BitVec.ofInt 32 v) }
/-- sat(x) of R85. -/
def sat32 (x : Int) : Int := if x > 2 ^ 31 - 1 then 2 ^ 31 - 1 else if x < -(2 ^ 31) then -(2 ^ 31) else x
/-- RNE of x ÷ 65,536 (R85). -/
def rne16 (x : Int) : Int :=
  let q := (roundInt 0 (decide (x < 0)) x.natAbs 65536 0).1
  if x < 0 then -(q : Int) else q
def sext19 (v : BitVec 19) : Int := v.toInt

/-- The law that runs, with its slot. -/
def State.running (s : State) : Option (Nat × Law) :=
  match s.bin.run with
  | none => none
  | some (slot, _) => (s.bin.laws.find? (·.1 == slot)).map fun e => (slot, e.2)
/-- A word of the running law acts on its register bank; without a running law nothing happens. -/
def State.lawOp (s : State) (f : Nat → Law → State → State × Law) : Res :=
  match s.running with
  | none => .next s
  | some (slot, l) =>
    let (s, l) := f slot l s
    .next (s.modBin fun b => { b with laws := Map.put b.laws slot l })
/-- The shape of most words: one register written. -/
def State.lawReg (s : State) (d : BitVec 4) (f : Law → Int) : Res := s.lawOp fun _ l s => (s, l.setQ d (f l))

/-- The partition whose slice a tenant held at the frame's start (R76), whatever the tenant map says since (R83). -/
def State.heldPart (s : State) (t : Nat) : Option Nat := (List.range 32).find? fun p => Map.get 0 s.bin.snapHold p == t + 1
/-- The partition of a law that runs; none for a system law. -/
def State.lawPart (s : State) (l : Law) : Option Nat := l.tenant.map fun t => (s.heldPart t).getD (s.tenantPart t)

/- Rights (R86, R87, R89) -/
def railFeeds (c : Nat) : Nat := c / 24 * 6 + c % 24 / 4
/-- A partition's clusters as the frame's start found them, by which rights are judged in the frame (R83, R86). -/
def State.partHad (s : State) (p c : Nat) : Bool := Map.get 0 s.bin.snapCl p / 2 ^ c % 2 == 1
/-- A rail feeds a partition, sensors and actuators lie within its rights, for a set of clusters (R86, R87, R89). -/
def feeds (has : Nat → Bool) (rail : Nat) : Bool := (List.range 4).any fun i => has (rail / 6 * 24 + rail % 6 * 4 + i)
def sensorRight (has : Nat → Bool) (cls i : Nat) : Bool :=
  match cls with
  | 0 => has (i / 4)
  | 3 => feeds has i
  | 5 | 6 => has i
  | _ => false
def askRight (has : Nat → Bool) (kind i : Nat) : Bool :=
  match kind with
  | 0 | 3 | 4 => has i
  | 2 => feeds has i
  | _ => false
def sensorClass (id : BitVec 19) : Nat := (id.extractLsb' 16 3).toNat
def sensorIndex (id : BitVec 19) : Nat := (id.extractLsb' 0 16).toNat

/-- num ÷ den as Q16.16, to nearest, ties to even (R87). -/
def q16 (num den : Nat) : Int := (roundInt 0 false (num * 65536) den 0).1
/-- The snapshot value of a sensor (R74, R87): rails and clocks as they stand, since they move at apply alone. -/
def State.sense (s : State) (cls i : Nat) : Int :=
  match cls with
  | 3 => q16 (s.railMv i) 1000
  | 5 => q16 (9 * s.clk i) 160
  | _ => (Config.sensor s.bin.frame cls i).toInt
def State.addFault (s : State) (p : Option Nat) : State :=
  match p with
  | none => s
  | some p => s.modBin fun b => { b with lawFault := if b.lawFault.contains p then b.lawFault else p :: b.lawFault }

def execSen (d : BitVec 4) (id : BitVec 19) (s : State) : Res :=
  s.lawOp fun _ l s =>
    let cls := sensorClass id
    let i := sensorIndex id
    let lost : Bool := match s.lawPart l with | none => false | some p => !sensorRight (s.partHad p) cls i
    if lost || Config.sensorFailed s.bin.frame cls i then (s.addFault (s.lawPart l), l.setQ d (2 ^ 31 - 1))
    else (s, l.setQ d (s.sense cls i))
def execHnt (d : BitVec 4) (hs : BitVec 19) (s : State) : Res :=
  s.lawOp fun _ l s =>
    let p := (s.lawPart l).getD (hs.extractLsb' 3 5).toNat
    (s, l.setQ d (Map.get (0 : W32) s.bin.snapHint (8 * p + (hs.extractLsb' 0 3).toNat)).toInt)
def execPrm (d : BitVec 4) (n : BitVec 4) (s : State) : Res := s.lawReg d fun l => (l.params.getD n.toNat 0).toInt
def execLdi (d : BitVec 4) (imm : BitVec 19) (s : State) : Res := s.lawReg d fun _ => sext19 imm
def execLdh (d q : BitVec 4) (imm : BitVec 19) (s : State) : Res :=
  s.lawReg d fun l => (imm ++ (BitVec.ofInt 32 (l.q' q)).extractLsb' 0 13 : BitVec 32).toInt
def execBinAdd (d q t : BitVec 4) (s : State) : Res := s.lawReg d fun l => sat32 (l.q' q + l.q' t)
def execBinSub (d q t : BitVec 4) (s : State) : Res := s.lawReg d fun l => sat32 (l.q' q - l.q' t)
def execBinMul (d q t : BitVec 4) (s : State) : Res := s.lawReg d fun l => sat32 (rne16 (l.q' q * l.q' t))
def execMli (d q : BitVec 4) (imm : BitVec 19) (s : State) : Res := s.lawReg d fun l => sat32 (rne16 (l.q' q * sext19 imm))
def execBinShr (d q : BitVec 4) (n : BitVec 5) (s : State) : Res := s.lawReg d fun l => l.q' q >>> n.toNat
def execBinMin (d q t : BitVec 4) (s : State) : Res := s.lawReg d fun l => if l.q' t < l.q' q then l.q' t else l.q' q
def execBinMax (d q t : BitVec 4) (s : State) : Res := s.lawReg d fun l => if l.q' q < l.q' t then l.q' t else l.q' q
def execClp (d q t : BitVec 4) (s : State) : Res :=
  s.lawReg d fun l =>
    let m := if l.q' q < l.q' t then l.q' t else l.q' q
    if l.q' (t + 1) < m then l.q' (t + 1) else m
def execBinAbs (d q : BitVec 4) (s : State) : Res := s.lawReg d fun l => sat32 (l.q' q).natAbs
def execCgt (q t : BitVec 4) (s : State) : Res := s.lawOp fun _ l s => (s, { l with flag := decide (l.q' t < l.q' q) })
def execCsel (d q t : BitVec 4) (s : State) : Res := s.lawReg d fun l => if l.flag then l.q' q else l.q' t
/-- The last `ask` for an actuator stands (R90). -/
def execAsk (q : BitVec 4) (id : BitVec 19) (s : State) : Res :=
  s.lawOp fun slot l s =>
    let k := sensorClass id
    let i := sensorIndex id
    let a : Ask := ⟨slot, l.tenant, s.lawPart l, k, i, l.q' q⟩
    (s.modBin fun b => { b with asks := (b.asks.filter fun x => !(x.slot == slot && x.kind == k && x.idx == i)) ++ [a] }, l)
def State.signal (s : State) (p : Nat) (bits : BitVec 8) : State :=
  s.modBin fun b => { b with sigs := Map.set 0 b.sigs p (Map.get 0 b.sigs p ||| bits) }
def execSig (q : BitVec 4) (ss : BitVec 19) (s : State) : Res :=
  s.lawOp fun _ l s =>
    if l.q' q = 0 then (s, l)
    else
      let bits := ss.extractLsb' 0 8
      match s.lawPart l with
      | some p => (s.signal p bits, l)
      | none =>
        if ss.getLsbD 13 then ((List.range 32).foldl (fun s p => s.signal p bits) s, l)
        else (s.signal (ss.extractLsb' 8 5).toNat bits, l)
def execBend (s : State) : Res := .next (s.modBin fun b => { b with run := none })

/- Loading (R78 to R83) -/
/-- The words up to and with the first `end`, decoded; none when one is malformed or there is no `end`. -/
def lawWords : List W32 → Option (List Instr)
  | [] => none
  | w :: r =>
    match decodeLaw w with
    | none => none
    | some .bend => some [.bend]
    | some i => (lawWords r).map (i :: ·)
/-- Fields that only a system law may use (R88, R91). -/
def tenantForm : Instr → Bool
  | .hnt _ hs => hs.extractLsb' 3 16 == 0
  | .sig _ ss => ss.extractLsb' 8 11 == 0
  | _ => true
def wordCycles : Instr → Nat
  | .sen .. => 2
  | _ => 1
def State.permitted (s : State) (p : Nat) : Instr → Bool
  | .sen _ id => sensorRight (s.partHas p) (sensorClass id) (sensorIndex id)
  | .ask _ id => askRight (s.partHas p) (sensorClass id) (sensorIndex id)
  | _ => true
/-- Checks 4, 5 and 6 of a load: the RESULT of the first that fails, or the law's words and cycles. Non-zero bits that R88 and
R91 ask to be zero in a tenant law make it malformed, RESULT 4, though R81 also lists hint and signal targets under RESULT 6
(see the log). -/
def State.verifyLaw (s : State) (code : List W32) (p : Option Nat) : Except Nat (Nat × Nat) :=
  match lawWords code with
  | none => .error 4
  | some is =>
    let cyc := (is.map wordCycles).sum
    if p.isSome && !is.all tenantForm then .error 4
    else if 96 < cyc then .error 5
    else match p with
      | none => .ok (is.length, cyc)
      | some p => if is.all (s.permitted p) then .ok (is.length, cyc) else .error 6

def State.lawAt (s : State) (slot : Nat) : Option Law := (s.bin.laws.find? (·.1 == slot)).map (·.2)
/-- A slot is free: no law holds it and no accepted load is on its way to it. -/
def State.slotFree (s : State) (slot : Nat) : Bool :=
  (s.lawAt slot).isNone && !s.bin.acts.any fun a => match a with | .load _ x _ => x == slot | _ => false
def State.holdsSlot (s : State) (t : Nat) : Bool :=
  s.bin.laws.any (fun e => e.2.tenant == some t) ||
  s.bin.acts.any fun a => match a with | .load _ _ l => l.tenant == some t | _ => false
def State.lawResult (s : State) (fn r : Nat) : State := s.setRegBits (rLawStatus fn) 15 8 r
def State.accept (s : State) (fn : Nat) (a : LawAct) : State :=
  (s.modBin fun b => { b with acts := b.acts ++ [a] }).setRegBit (rLawStatus fn) 0 true

/-- A LAW_CTL write with the checks of R81 in their order; fn is 0 for PF0, p + 1 for a partition. -/
def State.lawCtl (s : State) (fn : Nat) (v : Word) : State :=
  let t := Word.bits v 31 26
  let any := v.getLsbD 3
  let slot := Word.bits v 19 16
  let load := v.getLsbD 0
  let unload := v.getLsbD 1
  let commit := v.getLsbD 2
  let sys : Bool := fn == 0
  let mine (l : Law) : Bool := l.tenant == some t
  let code := (List.range 64).map fun i => (s.reg (rLawCode fn i)).extractLsb' 0 32
  let params := (List.range 16).map fun i => (s.reg (rLawParam fn i)).extractLsb' 0 32
  if s.regBit (rLawStatus fn) 0 then s.lawResult fn 9
  else if load.toNat + unload.toNat + commit.toNat ≠ 1 then s.lawResult fn 4
  else if !sys && !s.feature fLAWS then s.lawResult fn 8
  else if !sys && (!s.tenantValid t || s.tenantPart t + 1 != fn ||
      (!load && !((s.lawAt slot).map mine).getD false)) then s.lawResult fn 10
  else if load then
    let kinds := if sys then [0, 1] else (List.range 14).map (· + 2)
    let place : Option Nat :=
      if !sys && s.holdsSlot t then none
      else if any then kinds.find? s.slotFree
      else if sys then (if slot ≤ 1 then some slot else none)
      else if kinds.contains slot && s.slotFree slot then some slot else none
    match place with
    | none => s.lawResult fn 7
    | some slot =>
      match s.verifyLaw code (if sys then none else some (fn - 1)) with
      | .error r => s.lawResult fn r
      | .ok (n, cyc) => s.accept fn (.load fn slot ⟨code.take n, params, if sys then none else some t, [], false, cyc⟩)
  else if (s.lawAt slot).isNone then s.lawResult fn 7
  else if unload then s.accept fn (.unload fn slot)
  else s.accept fn (.params fn slot params)
/-- A LAW_CTL write of a function, which is ignored while its registers do not answer (R26). -/
def State.lawWrite (s : State) (fn : Nat) (v : Word) : State := s.served 0x2240 fun s => s.lawCtl fn v
/-- LAW_LOAD, LAW_UNLOAD, LAW_PARAM_COMMIT: a LAW_CTL write. -/
def execLawLoad (fn : Nat) (v : Word) (s : State) : Res := .next (s.lawWrite fn v)
def execLawUnload (fn : Nat) (v : Word) (s : State) : Res := .next (s.lawWrite fn v)
def execLawParamCommit (fn : Nat) (v : Word) (s : State) : Res := .next (s.lawWrite fn v)
/-- A tenant's law, loaded or about to be, is unloaded by one of the events of R83: as UNLOAD does, at the next frame start, for the
partition that the tenant has at the event. -/
def State.unloadLaw (s : State) (t : Nat) : State :=
  let slots := (s.bin.laws.filter fun e => e.2.tenant == some t).map (·.1) ++
    s.bin.acts.filterMap fun a => match a with | .load _ x l => if l.tenant = some t then some x else none | _ => none
  s.modBin fun b => { b with acts := b.acts ++ slots.map fun x => LawAct.drop x (s.tenantPart t) }

/- The frame (R73 to R76, R82, R399) -/
/-- Reference cycles of a frame, and of one Binnacle cycle. -/
def frameG : Nat := 36000
def binCycle : Nat := 9
def State.lawDone (s : State) (fn slot r : Nat) : State :=
  (((s.setRegBits (rLawStatus fn) 23 20 slot).setRegBits (rLawStatus fn) 15 8 r)).setRegBit (rLawStatus fn) 0 false
/-- An accepted action takes effect at a frame start (R82). -/
def State.lawAct (s : State) (a : LawAct) : State :=
  match a with
  | .load fn slot l =>
    if (l.tenant.map s.tenantValid).getD true then
      (s.modBin fun b => { b with laws := Map.put b.laws slot l }).lawDone fn slot 1
    else s.lawDone fn slot 10
  | .drop slot p =>
    match (s.lawAt slot).bind (·.tenant) with
    | none => s
    | some _ => (s.modBin fun b => { b with laws := b.laws.filter (·.1 != slot) }).addFault (some p)
  | .unload fn slot => (s.modBin fun b => { b with laws := b.laws.filter (·.1 != slot) }).lawDone fn slot 2
  | .params fn slot ps =>
    (s.modBin fun b => { b with laws := b.laws.map fun e => if e.1 = slot then (e.1, { e.2 with params := ps }) else e }).lawDone
      fn slot 3
/-- A snapshot is due: a frame begins now, the frame loop has started (R25), and it has not been taken yet. -/
def State.snapshotDue (s : State) : Bool := decide (s.g % frameG = 0) && decide (7 ≤ s.stage) && s.bin.snapped != some s.g
/-- The frame that runs has had its snapshot. -/
def State.inFrame (s : State) : Bool := s.bin.snapped == some (s.g - s.g % frameG)
/-- The tenant that holds a partition's slice at a snapshot: none while a switch is under way (R76, R113). -/
def State.holder (s : State) (p : Nat) : Option Nat := if (s.part p).stage = 0 then s.curTenant p else none
/-- A hint word as a snapshot latches it: the outgoing tenant's until the memory swap of a switch is over (R113). -/
def State.hintSeen (s : State) (k : Nat) : W32 :=
  let p := k / 8
  if (s.part p).stage = 3 && s.tier.swap.any (·.1 == p) then (s.part p).words.getD (k % 8) 0 else Map.get 0 s.bin.hints k
/-- FRAME_SNAPSHOT. -/
def execFrameSnapshot (s : State) : Res :=
  .next <|
    if !s.snapshotDue then s
    else
      let s := s.bin.acts.foldl (fun s a => s.lawAct a) s
      let hold := (List.range 32).filterMap fun p => (s.holder p).map fun t => (p, t + 1)
      let cl := ((List.range 32).map fun p => (p, s.partClusters p)).filter fun e => e.2 != 0
      let hints := ((List.range 256).map fun k => (k, s.hintSeen k)).filter fun e => e.2 != 0
      (s.setReg rBinFrame (s.reg rBinFrame + 1)).modBin fun b =>
        { b with acts := [], frame := s.g / frameG, snapped := some s.g, snapHint := hints, snapHold := hold, snapCl := cl,
                 asks := [], sigs := [], run := none }
def State.mayRun (s : State) (slot : Nat) (l : Law) : Bool :=
  match l.tenant with
  | none => decide (slot < 2)
  | some t => (s.heldPart t).isSome
/-- LAW_SLOT: the law of a slot begins (R76, R77); without a right to run it is skipped. -/
def execLawSlot (slot : Nat) (s : State) : Res :=
  .next <|
    if s.g % frameG ≠ binCycle * (64 + 128 * slot) || !s.inFrame || s.bin.run.isSome then s
    else match s.lawAt slot with
      | none => s
      | some l =>
        if s.mayRun slot l then
          let l := { l with q := l.q.filter fun e => decide (8 ≤ e.1), flag := false }
          s.modBin fun b => { b with laws := Map.put b.laws slot l, run := some (slot, 0) }
        else s

/- Composition (R90, R92 to R95, R97, R98, R398, R400) -/
def clockSteps (v : Int) : Int := v * 160 / (65536 * 9)
def clampSteps (v : Int) : Nat := if v < 8 then 8 else if v > 64 then 64 else v.toNat
/-- A rail value rounded up to 5 mV. -/
def railMvOf (v : Int) : Int := -(-(v * 200) / 65536) * 5
def clampMv (v : Int) : Nat := if v < 600 then 600 else if v > 950 then 950 else v.toNat
def dieOfAsk (kind i : Nat) : Nat := if kind = 2 then i / 6 else i / 24
/-- Whether a request still stands at composition (R90). -/
def State.standing (s : State) (a : Ask) : Bool :=
  s.dieState (dieOfAsk a.kind a.idx) == 2 &&
  (match a.part with
    | none => true
    | some p => askRight (s.partHad p) a.kind a.idx)
/-- The frame's requests, with the partition of their law (none for the system): from composition on, those that stood. -/
def State.requests (s : State) : List (Option Nat × Ask) := s.bin.asks.map fun a => (a.part, a)
/-- A partition's own request. -/
def ownAsk (rs : List (Option Nat × Ask)) (p kind i : Nat) : Option Int :=
  (rs.find? fun r => r.1 == some p && r.2.kind == kind && r.2.idx == i).map (·.2.val)
def sysAsks (rs : List (Option Nat × Ask)) (kind i : Nat) : List Int :=
  (rs.filter fun r => r.1.isNone && r.2.kind == kind && r.2.idx == i).map (·.2.val)
def clustersOn (rail : Nat) : List Nat := (List.range 4).map fun i => rail / 6 * 24 + rail % 6 * 4 + i
def State.gateOn (s : State) (i : Nat) : Bool := s.gate i == 0 || 3 ≤ s.gate i
/-- The entries of R93's maximum for a rail: value in mV, and the tenant whose law set it. -/
def State.railEntries (s : State) (rs : List (Option Nat × Ask)) (rail : Nat) : List (Int × Option Nat) :=
  let dflt : Int := s.regBits rRailDflt 15 0
  let laws := (rs.filter fun r => r.2.kind == 2 && r.2.idx == rail && (match r.1 with
      | none => true
      | some p => feeds (s.partHad p) rail)).map fun r => (railMvOf r.2.val, r.2.tenant)
  let defaults := ((clustersOn rail).filter fun c => s.gateOn c && (match s.partOfCluster c with
      | none => true
      | some p => (ownAsk rs p 2 rail).isNone)).map fun _ => (dflt, none)
  laws ++ defaults
def State.railTop (s : State) (rs : List (Option Nat × Ask)) (rail : Nat) : Int :=
  match s.railEntries rs rail with
  | [] => s.regBits rRailDflt 15 0
  | e :: es => es.foldl (fun m x => if m < x.1 then x.1 else m) e.1
/-- The voltage after this apply's step (R93). -/
def slew (now tgt : Nat) : Nat := if now < tgt then Nat.min tgt (now + 10) else Nat.max tgt (now - 10)
/-- f(V) of a die in whole steps (R94, R99). -/
def vfLimit (d mv : Nat) : Nat :=
  let o := mv - 600
  let i := Nat.min (o / 50) 6
  let a : Int := (Config.vfPoint d i).toNat
  let b : Int := (Config.vfPoint d (i + 1)).toNat
  (a + (b - a) * (o - 50 * i : Int) / 50).toNat
def leastOf (d : Nat) (l : List Nat) : Nat := l.foldl Nat.min d
/-- A cluster's clock, before the envelope cap is known: request, caps, V–f limit (R94). -/
def State.clockFor (s : State) (rs : List (Option Nat × Ask)) (c newMv cap : Nat) : Nat :=
  let own := (s.partOfCluster c).bind fun p => ownAsk rs p 0 c
  let req := match own with
    | some v => clampSteps (clockSteps v)
    | none => leastOf 64 ((sysAsks rs 0 c).map fun v => clampSteps (clockSteps v))
  let caps := leastOf 64 ((sysAsks rs 1 c).map fun v => clampSteps (clockSteps v))
  Nat.min (Nat.min req caps) (Nat.min (vfLimit (c / 24) (Nat.min (s.railMv (railFeeds c)) newMv)) cap)
/-- A gate request by sign: 0 on, 1 off, 2 forced off; none without a request (R89, R95). -/
def gateWish (sys own : List Int) : Option Nat :=
  if sys.any (· < 0) then some 2
  else if (sys ++ own).any (· > 0) then some 0
  else if (sys ++ own).isEmpty then none else some 1
def State.gateAsk (s : State) (rs : List (Option Nat × Ask)) (kind i : Nat) : Option Nat :=
  gateWish (sysAsks rs kind i) ((s.partOfCluster i).bind fun p => ownAsk rs p kind i).toList

/-- The partition of a cluster; 32 stands for the clusters of none (R98). -/
def State.ownerOfCluster (s : State) (c : Nat) : Nat := (s.partOfCluster c).getD 32
/-- Partitions a throttle selects: a quarter of the total influence, and the largest always (R98). Where every influence is zero
it selects none (see the log). -/
def selected (inf : List Nat) : List Nat :=
  let total := inf.sum
  let top := inf.foldl Nat.max 0
  (List.range inf.length).filter fun p =>
    let x := inf.getD p 0
    decide (0 < x) && (decide (total ≤ 4 * x) || x == top)
def State.influence (s : State) (clusters : List Nat) (w : Nat → Nat) : List Nat :=
  (List.range 33).map fun p =>
    ((clusters.filter fun c => s.ownerOfCluster c == p).map fun c => w c * Config.clusterPower s.bin.frame c).sum
def clustersOf (d : Nat) : List Nat := (List.range 24).map (24 * d + ·)
def overTemp (n cls i : Nat) (limit : Int) : Bool := decide (limit * 65536 < (Config.sensor n cls i).toInt)
/-- The throttles of this frame as the partitions they select, with their scope (R97, R98). -/
def State.throttles (s : State) : List (List Nat × List Nat) :=
  let n := s.bin.frame
  let icc := (List.range 4).filterMap fun d =>
    let amps : Int := ((List.range 6).map fun r => (Config.sensor n 4 (6 * d + r)).toInt).sum
    if amps > (Config.iccMax.toNat : Int) * 65536 then some (clustersOf d, selected (s.influence (clustersOf d) fun _ => 1)) else none
  let pkg := if (Config.sensor n 7 0).toInt > 4400 * 65536 then
      [(List.range 96, selected (s.influence (List.range 96) fun _ => 1))] else []
  let at' (d cls i : Nat) (limit : Int) : List (List Nat × List Nat) :=
    if overTemp n cls i limit then
      [(clustersOf d, selected (s.influence (clustersOf d) fun c => Config.coupling c (cls * 65536 + i)))] else []
  let hot := (List.range 4).flatMap fun d =>
    (List.range 96).flatMap (fun k => at' d 0 (96 * d + k) 105) ++ (List.range 64).flatMap (fun k => at' d 1 (64 * d + k) 105) ++
    (List.range 4).flatMap (fun l => at' d 2 (4 * d + l) 95)
  icc ++ pkg ++ hot
/-- ENV_CAP of a cluster for this frame: down by 4 steps, once however many throttles select its partition, else up by one
(R97; see the log). -/
def State.capFor (s : State) (ths : List (List Nat × List Nat)) (c : Nat) : Nat :=
  let now := s.envCap c
  if ths.any fun t => t.2.contains (s.ownerOfCluster c) then Nat.max 8 (now - 4) else Nat.min 64 (now + 1)

/-- COMPOSITION. -/
def execComposition (s : State) : Res :=
  .next <|
    if s.g % frameG ≠ binCycle * 2112 || !s.inFrame then s
    else
      let drops := (s.bin.asks.filter fun a => !s.standing a).filterMap (·.part)
      let s := drops.foldl (fun s p => s.addFault (some p)) s
      let s := s.modBin fun b => { b with asks := b.asks.filter s.standing }
      let rs := s.requests
      let ths := s.throttles
      let tops := (List.range 24).map fun r => s.railTop rs r
      let who := (List.range 24).map fun r => ((s.railEntries rs r).filter fun x => x.1 == tops.getD r 0).map (·.2)
      let tgts := tops.map clampMv
      let newMv (r : Nat) : Nat := slew (s.railMv r) (tgts.getD r 800)
      let caps := (List.range 96).map (s.capFor ths)
      let clks := (List.range 96).map fun c => s.clockFor rs c (newMv (railFeeds c)) (caps.getD c 64)
      let gates := (List.range 96).filterMap (fun c => (s.gateAsk rs 3 c).map (c, ·)) ++
        (List.range 96).filterMap (fun g => (s.gateAsk rs 4 g).map (96 + g, ·))
      let clk' := (List.range 96).filterMap fun c => (s.partOfCluster c).bind fun p =>
        (ownAsk rs p 0 c).bind fun v => if (clks.getD c 0 : Int) ≠ clockSteps v then some p else none
      let rail' := rs.filterMap fun r => if r.2.kind = 2 && (railMvOf r.2.val < 600 || 950 < railMvOf r.2.val) then r.1 else none
      let index (l : List Nat) : Map Nat := l.zipIdx.map fun e => (e.2, e.1)
      s.modBin fun b =>
        { b with railTgt := index tgts, railMax := tops.zipIdx.map fun e => (e.2, e.1),
                 railWho := (who.zipIdx.filter fun e => !e.1.isEmpty).map fun e => (e.2, e.1), railDflt := s.regBits rRailDflt 15 0,
                 clkNext := index clks,
                 gateNext := gates, capNext := index caps, clamped := (clk' ++ rail').eraseDups }

/- Apply (R96, R101 to R104) -/
def State.occupied (s : State) (c : Nat) : Bool :=
  (List.range 16).any fun i => (s.ctx (16 * c + i)).mode != .idle
/-- A gate after its request (R95): a cluster in use stays on with the request standing; one that is off comes on only when
asked. -/
def State.gateAfter (s : State) (i : Nat) : Nat :=
  let now := s.gate i
  let wish := match s.bin.gateNext.find? (·.1 == i) with
    | some (_, w) => w
    | none => if 3 ≤ now then now - 2 else now
  if wish = 0 then 0
  else if now = 1 || now = 2 then wish
  else if i < 96 && s.occupied i then (if wish = 2 then 4 else 3)
  else wish
/-- nJ of n ÷ d to nearest, ties to even, added to a tenant's ENERGY (R101, R102). -/
def State.addEnergy (s : State) (t : Option Nat) (n d : Nat) : State :=
  match t with
  | none => s
  | some t => s.setReg (rEnergy t) (s.reg (rEnergy t) + BitVec.ofNat 64 (roundInt 0 false n d 0).1)
/-- The charge of one cluster (R101), to the tenant that held its partition at the snapshot; the excess to the entries that set
the rail's maximum at composition. With no holder nobody is charged, and its excess is dropped (see the log). -/
def State.chargeCluster (s : State) (rs : List (Option Nat × Ask)) (c : Nat) : State :=
  match (List.range 32).find? fun p => s.partHad p c with
  | none => s
  | some p =>
    let h := Map.get 0 s.bin.snapHold p
    if h = 0 then s
    else
      let r := railFeeds c
      let vv := s.railMv r
      let v := match ownAsk rs p 2 r with
        | some x => clampMv (railMvOf x)
        | none => s.bin.railDflt
      let e := 10000 * Config.clusterPower s.bin.frame c
      let own := if v < vv then v else vv
      let s := s.addEnergy (some (h - 1)) (e * own * own) (65536 * vv * vv)
      if v < vv then
        let who := Map.get [] s.bin.railWho r
        who.foldl (fun s x => s.addEnergy x (e * (vv * vv - v * v)) (65536 * vv * vv * who.length)) s
      else s
/-- Event bits are posted; a bit that rises raises 0x11 where it is unmasked (R103, R104). -/
def State.postEvents (s : State) (p : Nat) (bits : BitVec 16) : State :=
  let old := Map.get 0 s.bin.events p
  let s := s.modBin fun b => { b with events := Map.set 0 b.events p (old ||| bits) }
  if bits &&& ~~~ old = 0 || !s.feature fPOWER then s
  else
    let mark (e : Nat × Ctx) : Nat × Ctx :=
      if e.2.mode != .idle && e.2.m11 && s.partOf e.1 == some p then (e.1, { e.2 with ev11 := true }) else e
    { s with ctxs := s.ctxs.map mark }
/-- The event bits of a partition for this apply; `old` are the rails before it. -/
def State.eventBits (s : State) (rs : List (Option Nat × Ask)) (old : Nat → Nat) (p : Nat) : BitVec 16 :=
  let sig := (Map.get 0 s.bin.sigs p).toNat
  let fault := s.bin.lawFault.contains p
  let throttled := (List.range 96).any fun c => s.partHas p c && (decide (s.envCap c < 64) || s.bin.drooped.contains (c / 24))
  let above := rs.any fun r => r.1 == some p && r.2.kind == 2 && decide (railMvOf r.2.val < (s.railMv r.2.idx : Int))
  let changed := (List.range 24).any fun r => feeds (s.partHas p) r && s.railMv r != old r
  BitVec.ofNat 16 (sig * 256 + fault.toNat * 16 + throttled.toNat * 8 + above.toNat * 4 + changed.toNat * 2 +
    (s.bin.clamped.contains p).toNat)
/-- Slice groups whose gate changed: one that goes off powers down later, one that comes on wakes (R159). -/
def State.gateSlices (s : State) (old : Nat → Nat) : State :=
  (List.range 96).foldl (fun s g =>
    let was := old (96 + g)
    let now := s.gate (96 + g)
    if was = 0 && now ≠ 0 then s.later (.sliceGroupPowerDown (g / 24) (g % 24))
    else if was ≠ 0 && now = 0 && s.tier.off.contains g then
      (s.modTier fun t => { t with off := t.off.filter (· != g), waking := g :: t.waking }).later (.sliceGroupReady (g / 24) (g % 24))
    else s) s
/-- APPLY. -/
def execApplyFrame (s : State) : Res :=
  .next <|
    if s.g % frameG ≠ binCycle * 2368 || !s.inFrame then s
    else
      let rs := s.requests
      let oldRail := s.railMv
      let oldGate := s.gate
      let rails : Map Nat := (List.range 24).map fun r => (r, slew (s.railMv r) (Map.get 800 s.bin.railTgt r))
      let clks : Map Nat := (List.range 96).map fun c => (c, Map.get 64 s.bin.clkNext c)
      let caps : Map Nat := (List.range 96).map fun c => (c, Map.get 64 s.bin.capNext c)
      let s := s.modBin fun b => { b with rail := rails, clk := clks, envCap := caps }
      let gates : Map Nat := ((List.range 192).map fun i => (i, s.gateAfter i)).filter fun e => e.2 != 0
      let s := (s.modBin fun b => { b with gate := gates }).gateSlices oldGate
      let s := (List.range 96).foldl (fun s c => s.chargeCluster rs c) s
      let bits := (List.range 32).map fun p => s.eventBits rs oldRail p
      let s := (bits.zipIdx).foldl (fun s e => if e.1 = 0 then s else s.postEvents e.2 e.1) s
      s.modBin fun b => { b with lawFault := [], drooped := b.droop, gateNext := [], clamped := [] }

/- Droop (R97) and slice power (R159) -/
/-- DIE_DROOP: edge suppression begins. -/
def execDieDroop (die : Nat) (s : State) : Res :=
  let add (l : List Nat) : List Nat := if l.contains die then l else die :: l
  .next (s.modBin fun b => { b with droop := add b.droop, drooped := add b.drooped })
/-- DROOP_CLEAR. -/
def execDroopClear (die : Nat) (s : State) : Res := .next (s.modBin fun b => { b with droop := b.droop.filter (· != die) })
/-- A scratch way that a partition with ENABLE set holds stays powered (R159). -/
def State.scratchPowered (s : State) (d w : Nat) : Bool :=
  (List.range 32).any fun p => s.partEnabled p && hasBit (s.regBits (rStackSplit p d) 15 0) w
/-- SLICE_GROUP_POWER_DOWN: the group's dirty granules go home, its blocks go, and its scratch that loses power reads zero. -/
def execSliceGroupPowerDown (die group : Nat) (s : State) : Res :=
  let g := 24 * die + group
  .next <|
    if s.gate (96 + g) = 0 || s.tier.off.contains g then s
    else
      let inGroup (k : Nat) (_ : Gran) : Bool := keySliceIdx k / 16 == g
      let s := (s.writeBackAll inGroup).dropGrans inGroup
      let lost (o : Nat) : Bool := decide (o < 2 ^ 31) && o / 2 ^ 29 == die && scratchSlice o / 16 == g && !s.scratchPowered die (scratchWay o)
      let s := { s with mem := s.mem.filter fun e => !(decide (scratchKey 0 ≤ e.1) && lost (e.1 - scratchKey 0)) }
      s.modTier fun t =>
        { t with off := g :: t.off, scrMark := t.scrMark.filter (fun e => !lost (64 * e.1)), scrHeld := t.scrHeld.filter fun e => !lost (64 * e.1),
                 vecMark := t.vecMark.filter fun e => e.1 / 1024 / 16 != g }
/-- SLICE_GROUP_READY. -/
def execSliceGroupReady (die group : Nat) (s : State) : Res :=
  .next (s.modTier fun t => { t with waking := t.waking.filter (· != 24 * die + group) })

end Sys2Proof.Machine
end

