-- ==== Sys2Proof/Machine/Text.lean ====
section
/-! DEFINITION. Bundles and groups as they stand in a crew's text: headers, ports, op words and their extensions, the
registers each op reads and writes, and the encoding checks of R257 to R267 in their order. -/

namespace Sys2Proof.Machine

/- Registers by one number, for the checks of R265: 1 to 63 s, 64 + n p, 96 + n v, 112 + n mp, 120 + n lc, 126 EC. -/
def rP (p : BitVec 4) : Nat := 64 + p.toNat
def rV (t : TileOp) : Nat := 96 + t.tile
def rMp (n : Nat) : Nat := 112 + n
def rLc (n : Nat) : Nat := 120 + n
def rEc : Nat := 126
/-- The rotating window p8 to p15. -/
def rWindow : List Nat := (List.range 8).map (72 + ·)
def allMp : List Nat := (List.range 8).map rMp
/-- A scalar b operand (R273). -/
def bReg (b : TileOp) (bs : BitVec 1) : List SReg := if bs = 1 then [b.sreg] else []

/-- Scalar reads of an op in the order d, j, k, s0 among them (R262, R263, R276 to R282). -/
def scalarReads : Instr → List SReg
  | .jmp _ j _ | .wait _ j _ | .fmt _ j | .wsys _ j _ | .hint _ j _ | .inject _ j _ => [j]
  | .ret _ => [63]
  | .loop _ _ cr _ | .loopp _ _ cr _ _ => [cr]
  | .realign _ _ j _ => [j]
  | .add _ _ _ j k | .sub _ _ _ j k | .mul _ _ _ j k | .mulh _ _ _ j k | .mulhu _ _ _ j k | .div _ _ _ j k
  | .divu _ _ _ j k | .rem _ _ _ j k | .remu _ _ _ j k | .and _ _ _ j k | .or _ _ _ j k | .xor _ _ _ j k
  | .andn _ _ _ j k | .shl _ _ _ j k | .shr _ _ _ j k | .sar _ _ _ j k | .min _ _ _ j k | .max _ _ _ j k
  | .minu _ _ _ j k | .maxu _ _ _ j k | .fadd _ _ _ j k | .fmul _ _ _ j k => [j, k]
  | .ext _ _ _ j k _ | .lea _ _ _ j k _ | .sel _ _ _ j k _ => [j, k]
  | .clz _ _ _ j | .popc _ _ _ j => [j]
  | .addi _ _ _ j _ _ | .andi _ _ _ j _ _ | .ori _ _ _ j _ _ | .movhi _ _ _ j _ _ => [j]
  | .shli _ _ _ j _ | .shri _ _ _ j _ | .sari _ _ _ j _ | .fcvt _ _ _ j _ => [j]
  | .cmp _ _ _ j k _ | .fcmp _ _ _ j k _ => [j, k]
  | .cmpi _ _ _ j _ _ _ => [j]
  | .ffma _ _ d j k => [d, j, k]
  | .ld _ _ j _ _ _ _ _ _ => [j]
  | .st _ d j _ _ _ _ _ => [d, j]
  | .amo _ _ j k _ _ _ _ _ => [j, k]
  | .cas _ d j k _ _ _ _ => [d, j, k]
  | .vadd _ _ _ _ b bs _ | .vsub _ _ _ _ b bs _ | .vmul _ _ _ _ b bs _ | .vfma _ _ _ _ b bs _ | .vmax _ _ _ _ b bs _
  | .vmin _ _ _ _ b bs _ | .vand _ _ _ _ b bs _ | .vor _ _ _ _ b bs _ | .vxor _ _ _ _ b bs _ | .vshl _ _ _ _ b bs _
  | .vshr _ _ _ _ b bs _ | .vsar _ _ _ _ b bs _ | .vsel _ _ _ _ b bs _ => bReg b bs
  | .vcmp _ _ _ _ b bs _ => bReg b bs
  | .phMul _ _ _ b bs _ | .phDiv _ _ _ b bs _ | .phPow _ _ _ b bs _ | .phCmp _ _ _ b bs _ => bReg b bs
  | .vld _ _ _ j _ _ | .vldT _ _ _ j _ _ | .vst _ _ _ j _ _ | .vqst _ _ _ j _ _ | .vdql _ _ _ j _ _
  | .vdqlT _ _ _ j _ _ => [j]
  | .mpset _ _ j => [j]
  | .bld _ j k | .bst _ j k | .bmc _ j k | .larm _ j k | .wbr _ j k | .invr _ j k | .tok _ j k => [j, k]
  | .larmImm _ j _ => [j]
  | .fsig _ _ j k | .coll _ _ j k | .pref _ _ j k => [j, k]
  | .mig _ j k _ _ => [j, k]
  | _ => []
/-- Shared tile reads (R263). -/
def tileReads : Instr → Nat
  | .vfma .. | .vsel .. | .vst .. | .vqst .. | .xblk .. | .xzip .. | .xunzip .. | .xcol .. => 1
  | _ => 0

/-- The guard of an op. -/
def guardOf : Instr → Guard
  | .br g .. | .call g .. | .jmp g .. | .ret g | .loop g .. | .loopp g .. | .brstage g .. | .wait g .. | .tba g ..
  | .tbw g .. | .yield g | .fmt g .. | .fmtImm g .. | .fmtr g .. | .rsys g .. | .wsys g .. | .trap g .. | .tret g
  | .retire g | .qent g .. | .realign g .. | .tick g .. | .time g .. | .hint g .. | .evt g .. | .inject g .. => g
  | .add _ g .. | .sub _ g .. | .mul _ g .. | .mulh _ g .. | .mulhu _ g .. | .div _ g .. | .divu _ g .. | .rem _ g ..
  | .remu _ g .. | .and _ g .. | .or _ g .. | .xor _ g .. | .andn _ g .. | .shl _ g .. | .shr _ g .. | .sar _ g ..
  | .min _ g .. | .max _ g .. | .minu _ g .. | .maxu _ g .. | .clz _ g .. | .popc _ g .. | .ext _ g .. | .lea _ g ..
  | .sel _ g .. | .addi _ g .. | .andi _ g .. | .ori _ g .. | .shli _ g .. | .shri _ g .. | .sari _ g .. | .movi _ g ..
  | .movhi _ g .. | .cmp _ g .. | .cmpi _ g .. | .pset _ g .. | .fadd _ g .. | .fmul _ g .. | .ffma _ g .. | .fcvt _ g ..
  | .fcmp _ g .. => g
  | .ld g .. | .st g .. | .amo g .. | .cas g .. => g
  | .vadd _ g .. | .vsub _ g .. | .vmul _ g .. | .vfma _ g .. | .vmax _ g .. | .vmin _ g .. | .vabs _ g .. | .vneg _ g ..
  | .vand _ g .. | .vor _ g .. | .vxor _ g .. | .vshl _ g .. | .vshr _ g .. | .vsar _ g .. | .vcmp _ g .. | .vsel _ g ..
  | .vmov _ g .. | .vcvt _ g .. | .vbcy _ g .. | .vbcx _ g .. | .vrolx _ g .. | .vroly _ g .. | .vsumx _ g ..
  | .vsumy _ g .. | .vmaxx _ g .. | .vmaxy _ g .. | .vargx _ g .. | .vscanx _ g .. | .vld _ g .. | .vldT _ g ..
  | .vst _ g .. | .vqst _ g .. | .vdql _ g .. | .vdqlT _ g .. | .viota _ g .. => g
  | .vexp2 g .. | .vlog2 g .. | .vrcp g .. | .vrsqrt g .. | .vperm g .. | .phMul g .. | .phDiv g .. | .phPow g ..
  | .phCmp g .. | .phSumx g .. | .phSumy g .. | .phRot g .. | .phFrom g .. | .phCvt g .. | .phCos g .. | .phSin g .. => g
  | .xblk g .. | .xzip g .. | .xunzip g .. | .xcol g .. => g
  | .mcall g .. | .wld g .. | .mma g .. | .rot g .. | .drn g .. | .smo g .. | .zro g .. | .mpset g .. | .mpget g ..
  | .msnap g .. => g
  | .bld g .. | .bst g .. | .bmc g .. | .larm g .. | .larmImm g .. | .fence g .. | .drain g .. | .fsig g .. | .mig g ..
  | .wbr g .. | .invr g .. | .coll g .. | .tok g .. | .pref g .. | .acct g .. => g
  | _ => 0

/-- Tiles an op reads. -/
def tilesRead : Instr → List Nat
  | .vadd _ _ _ a b bs _ | .vsub _ _ _ a b bs _ | .vmul _ _ _ a b bs _ | .vmax _ _ _ a b bs _ | .vmin _ _ _ a b bs _
  | .vand _ _ _ a b bs _ | .vor _ _ _ a b bs _ | .vxor _ _ _ a b bs _ | .vshl _ _ _ a b bs _ | .vshr _ _ _ a b bs _
  | .vsar _ _ _ a b bs _ => if bs = 1 then [rV a] else [rV a, rV b]
  | .vcmp _ _ _ a b bs _ => if bs = 1 then [rV a] else [rV a, rV b]
  | .phMul _ _ a b bs _ | .phDiv _ _ a b bs _ | .phPow _ _ a b bs _ | .phCmp _ _ a b bs _ =>
    if bs = 1 then [rV a] else [rV a, rV b]
  | .vfma _ _ d a b bs _ | .vsel _ _ d a b bs _ => if bs = 1 then [rV d, rV a] else [rV d, rV a, rV b]
  | .vabs _ _ _ a _ | .vneg _ _ _ a _ | .vmov _ _ _ a _ | .vsumx _ _ _ a _ | .vsumy _ _ _ a _ | .vmaxx _ _ _ a _
  | .vmaxy _ _ _ a _ | .vargx _ _ _ a _ | .vscanx _ _ _ a _ => [rV a]
  | .vcvt _ _ _ a _ | .vbcy _ _ _ a _ | .vbcx _ _ _ a _ | .vrolx _ _ _ a _ | .vroly _ _ _ a _ => [rV a]
  | .vst _ _ t _ _ _ | .vqst _ _ t _ _ _ => [rV t]
  | .vexp2 _ _ a _ | .vlog2 _ _ a _ | .vrcp _ _ a _ | .vrsqrt _ _ a _ | .phSumx _ _ a _ | .phSumy _ _ a _
  | .phFrom _ _ a _ | .phCvt _ _ a _ | .phCos _ _ a _ | .phSin _ _ a _ => [rV a]
  | .vperm _ _ a b _ | .phRot _ _ a b _ => [rV a, rV b]
  | .xblk _ _ a _ | .xzip _ _ a _ | .xunzip _ _ a _ | .xcol _ _ a _ => [rV a]
  | _ => []
/-- Other registers an op reads: predicates, parameters, counters. -/
def othersRead : Instr → List Nat
  | .loop _ lv cr _ | .loopp _ lv cr _ _ => if cr = 0 then [rLc lv.toNat] else []
  | .brstage .. => [rLc 0, rEc] ++ rWindow
  | .sel _ _ _ _ _ pn => [rP pn]
  | .pset _ _ _ pj pk _ => [rP pj, rP pk]
  | .mcall .. | .wld .. | .mma .. | .rot .. | .drn .. | .smo .. | .zro .. => allMp
  | .mpget _ n _ => [rMp n.toNat]
  | _ => []
/-- Writes to s0 and p0, and reads of them, are no registers of the checks (R265). -/
def realReg (r : Nat) : Bool := r != 0 && r != 64
/-- Registers an op reads (R265). -/
def regReads (i : Instr) : List Nat :=
  (rP (guardOf i) :: (scalarReads i).map (·.toNat) ++ tilesRead i ++ othersRead i).filter realReg
/-- Registers an op writes (R265). -/
def regWrites (i : Instr) : List Nat :=
  (match i with
  | .call .. => [63]
  | .loop _ lv _ _ => [rLc lv.toNat]
  | .loopp _ lv _ _ _ => [rLc lv.toNat, rEc] ++ rWindow
  | .brstage .. => [rLc 0, rEc] ++ rWindow
  | .fmtr _ d | .rsys _ d _ | .qent _ d | .realign _ d _ _ | .tick _ d | .time _ d | .evt _ d => [d.toNat]
  | .add _ _ d _ _ | .sub _ _ d _ _ | .mul _ _ d _ _ | .mulh _ _ d _ _ | .mulhu _ _ d _ _ | .div _ _ d _ _
  | .divu _ _ d _ _ | .rem _ _ d _ _ | .remu _ _ d _ _ | .and _ _ d _ _ | .or _ _ d _ _ | .xor _ _ d _ _
  | .andn _ _ d _ _ | .shl _ _ d _ _ | .shr _ _ d _ _ | .sar _ _ d _ _ | .min _ _ d _ _ | .max _ _ d _ _
  | .minu _ _ d _ _ | .maxu _ _ d _ _ | .fadd _ _ d _ _ | .fmul _ _ d _ _ | .ffma _ _ d _ _ => [d.toNat]
  | .clz _ _ d _ | .popc _ _ d _ => [d.toNat]
  | .ext _ _ d _ _ _ | .lea _ _ d _ _ _ | .sel _ _ d _ _ _ => [d.toNat]
  | .addi _ _ d _ _ _ | .andi _ _ d _ _ _ | .ori _ _ d _ _ _ | .movhi _ _ d _ _ _ => [d.toNat]
  | .shli _ _ d _ _ | .shri _ _ d _ _ | .sari _ _ d _ _ | .fcvt _ _ d _ _ => [d.toNat]
  | .movi _ _ d _ _ => [d.toNat]
  | .cmp _ _ pd _ _ _ | .fcmp _ _ pd _ _ _ => [rP pd]
  | .cmpi _ _ pd _ _ _ _ => [rP pd]
  | .pset _ _ pd _ _ _ => [rP pd]
  | .ld _ d _ _ _ _ _ _ _ => [d.toNat]
  | .amo _ d _ _ _ _ _ _ _ => [d.toNat]
  | .cas _ d _ _ _ _ _ _ => [d.toNat]
  | .vadd _ _ d _ _ _ _ | .vsub _ _ d _ _ _ _ | .vmul _ _ d _ _ _ _ | .vfma _ _ d _ _ _ _ | .vmax _ _ d _ _ _ _
  | .vmin _ _ d _ _ _ _ | .vand _ _ d _ _ _ _ | .vor _ _ d _ _ _ _ | .vxor _ _ d _ _ _ _ | .vshl _ _ d _ _ _ _
  | .vshr _ _ d _ _ _ _ | .vsar _ _ d _ _ _ _ | .vsel _ _ d _ _ _ _ => [rV d]
  | .vcmp _ _ d _ _ _ _ => [rV d]
  | .vabs _ _ d _ _ | .vneg _ _ d _ _ | .vmov _ _ d _ _ | .vsumx _ _ d _ _ | .vsumy _ _ d _ _ | .vmaxx _ _ d _ _
  | .vmaxy _ _ d _ _ | .vargx _ _ d _ _ | .vscanx _ _ d _ _ => [rV d]
  | .vcvt _ _ d _ _ | .vbcy _ _ d _ _ | .vbcx _ _ d _ _ | .vrolx _ _ d _ _ | .vroly _ _ d _ _ => [rV d]
  | .vld _ _ t _ _ _ | .vdql _ _ t _ _ _ => [rV t]
  | .vldT _ _ t _ _ _ | .vdqlT _ _ t _ _ _ => [rV t]
  | .viota _ _ d _ => [rV d]
  | .vexp2 _ d _ _ | .vlog2 _ d _ _ | .vrcp _ d _ _ | .vrsqrt _ d _ _ | .phSumx _ d _ _ | .phSumy _ d _ _
  | .phFrom _ d _ _ | .phCvt _ d _ _ | .phCos _ d _ _ | .phSin _ d _ _ => [rV d]
  | .vperm _ d _ _ _ | .phRot _ d _ _ _ => [rV d]
  | .phMul _ d _ _ _ _ | .phDiv _ d _ _ _ _ | .phPow _ d _ _ _ _ | .phCmp _ d _ _ _ _ => [rV d]
  | .xblk _ d _ _ | .xzip _ d _ _ | .xunzip _ d _ _ | .xcol _ d _ _ => [rV d]
  | .mpset _ n _ => [rMp n.toNat]
  | .mpget _ _ d => [d.toNat]
  | .msnap _ t d _ => [rV t, d.toNat]
  | .acct _ d => [d.toNat]
  | _ => []).filter realReg

/- The header (R258) and the tile-port word (R261) -/
def hMask (h : W32) : Nat := (h.extractLsb' 0 8).toNat
def hXm (h : W32) : Nat := (h.extractLsb' 8 8).toNat
def hStop (h : W32) : Bool := h.getLsbD 16
def hTile (h : W32) : Bool := h.getLsbD 17
def hPort (h : W32) (i : Nat) : Nat := (h.extractLsb' (18 + 3 * i) 3).toNat
def tPort (t : W32) (i : Nat) : Nat := (t.extractLsb' (4 * i) 4).toNat
/-- Slots present, ascending. -/
def slotsOf (mask : Nat) : List Nat := (List.range 8).filter (hasBit mask)

/-- A bundle: its address, its length in bytes, its header, its tile-port word, and its ops by slot. -/
structure Bundle where
  addr : Nat
  len  : Nat
  head : W32
  tile : W32
  ops  : List (Nat × Instr)
  deriving DecidableEq, Repr
def Bundle.mask (b : Bundle) : Nat := hMask b.head
def Bundle.last (b : Bundle) : Bool := hStop b.head

/-- The op words of a bundle with their extensions, from byte offset `o` on, and where they end (R257). -/
def opWords (rd : Nat → W32) (xm : Nat) : List Nat → Nat → List (Nat × W32 × Option W32) × Nat
  | [], o => ([], o)
  | n :: ns, o =>
    if hasBit xm n then
      let (r, e) := opWords rd xm ns (o + 8)
      ((n, rd o, some (rd (o + 4))) :: r, e)
    else
      let (r, e) := opWords rd xm ns (o + 4)
      ((n, rd o, none) :: r, e)
/-- An op's reading of its elements is legal under a vector element format (R279, R321). -/
def veLegal (ve : Nat) : Instr → Bool
  | .vadd .. | .vsub .. | .vmul .. | .vfma .. | .vmax .. | .vmin .. | .vabs .. | .vneg .. | .vsumx .. | .vsumy .. | .vscanx ..
  | .vmaxx .. | .vmaxy .. | .vargx .. => decide (ve ≤ 5)
  | .vcmp _ _ _ _ _ _ x => decide (ve ≤ 5) && decide ((x.aux.extractLsb' 0 4).toNat ≤ if ve = 4 ∨ ve = 5 then 11 else 7)
  | .vexp2 .. | .vlog2 .. | .vrcp .. | .vrsqrt .. => decide (ve ≤ 1)
  | .vqst .. | .vdql .. | .vdqlT .. => ve == 0 || ve == 4
  | _ => true
/-- An op of a slot, with the checks that the format register (none: it has been checked) and the microcode of the running image set decide (R279, R281,
R321, R364). -/
def decodeOp (hdr : List Byte) (f : Option W32) (slot : Nat) (w : W32) (x : Option W32) : Except Nat Instr :=
  match decodeSlot slot w x with
  | .error e => .error e
  | .ok i =>
    match i with
    | .mcall _ r _ => if Config.microcodeLoaded hdr r.toNat then .ok i else .error 1
    | _ => if f.all fun f => veLegal (fVE f) i then .ok i else .error 2
/-- The first op whose decoding gives a subcode. -/
def opError (ds : List (Nat × Except Nat Instr)) (sub : Nat) : Option Nat :=
  ds.findSome? fun d => match d.2 with | .error e => if e = sub then some d.1 else none | .ok _ => none
/-- The higher slot of the first pair of ops of a bundle that write one register (subcode 6). -/
def doubleWrite : List (Nat × Instr) → List Nat → Option Nat
  | [], _ => none
  | (n, i) :: r, w => if (regWrites i).any w.contains then some n else doubleWrite r (w ++ regWrites i)
def tileFields (t : W32) : List Nat := (List.range 4).map (tPort t)
/-- Ports allotted to a slot: scalar, and shared tile. -/
def scalarPorts (h : W32) (n : Nat) : List Nat := (List.range 4).filter fun i => hPort h i == n
def tilePorts (h t : W32) (n : Nat) : List Nat := (List.range 4).filter fun i => hTile h && tPort t i == 8 + n
/-- A bundle's own port allotment (R261, R262). -/
def portsBad (h t : W32) (ops : List (Nat × Instr)) : Bool :=
  let mask := hMask h
  (hTile h && ((tileFields t).any (fun f => decide (8 ≤ f) && !hasBit mask (f - 8)) || (tileFields t).all (· < 8))) ||
  ops.any fun (n, i) =>
    (scalarPorts h n).length != ((scalarReads i).filter (· != 0)).length || (tilePorts h t n).length != tileReads i

/-- What stands at an address: a bundle, or an encoding fault of one, with the slot it names and its subcode. -/
inductive Parse where
  | good (b : Bundle)
  | bad (slot sub : Nat)
  deriving DecidableEq, Repr
/-- The first of several checks that fails. -/
def firstBad : List (Option (Nat × Nat)) → Option (Nat × Nat)
  | [] => none
  | some x :: _ => some x
  | none :: r => firstBad r
/-- A bundle with the checks of R267 that it alone decides, in their order. `rd` reads the word at a byte offset. -/
def parseBundle (rd : Nat → W32) (hdr : List Byte) (f : Option W32) (addr : Nat) : Parse :=
  let h := rd 0
  let mask := hMask h
  let slots := slotsOf mask
  let low := slots.headD 0
  let t := if hTile h then rd 4 else 0
  let (ws, len) := opWords rd (hXm h) slots (if hTile h then 8 else 4)
  let ds := ws.map fun (n, w, x) => (n, decodeOp hdr f n w x)
  let ops := ds.filterMap fun d => match d.2 with | .ok i => some (d.1, i) | .error _ => none
  let tileBad : Bool := hTile h && (t.extractLsb' 16 16 != 0 || (tileFields t).any fun x => decide (0 < x) && decide (x < 8))
  match firstBad
    [ if (List.range 8).any (fun n => hasBit (hXm h) n && !hasBit mask n) then some (low, 7) else none,
      (opError ds 7).map (·, 7),
      if mask = 0 then some (0, 1) else none,
      (opError ds 1).map (·, 1),
      if h.extractLsb' 30 2 != 0 || tileBad then some (low, 2) else none,
      (opError ds 2).map (·, 2),
      (doubleWrite ops []).map (·, 6),
      if portsBad h t ops then some (low, 3) else none ] with
  | some (n, sub) => .bad n sub
  | none => .good ⟨addr, len, h, t, ops⟩

/-- A bundle reads or writes a register that the other writes (subcode 5). -/
def depends (b c : Bundle) : Bool :=
  let rw (x : Bundle) : List Nat := x.ops.flatMap fun o => regReads o.2 ++ regWrites o.2
  let wr (x : Bundle) : List Nat := x.ops.flatMap fun o => regWrites o.2
  (wr b).any (rw c).contains || (wr c).any (rw b).contains
/-- The checks of a bundle against the earlier bundles of its group (R262, R264, R265). -/
def againstEarlier (earlier : List Bundle) (b : Bundle) (used : Nat) : Option Nat :=
  let slots (x : Bundle) : List Nat := slotsOf x.mask
  let clash (e : Bundle) : Bool :=
    (List.range 4).any (fun i => (slots e).contains (hPort e.head i) && (slots b).contains (hPort b.head i)) ||
    (List.range 4).any (fun i => hTile e.head && hTile b.head && decide (8 ≤ tPort e.tile i) && decide (8 ≤ tPort b.tile i))
  if earlier.any clash then some 3
  else if earlier.any fun e => (slots e).any (slots b).contains then some 4
  else if earlier.any fun e => depends e b then some 5
  else if 96 < used + b.len then some 8
  else none

/-- A group: its bundles up to the last, or up to the first bundle that breaks an encoding rule (R264, R267). -/
structure Group where
  bundles : List Bundle
  /-- address, slot and subcode of the bundle that faults -/
  bad     : Option (Nat × Nat × Nat)
  deriving DecidableEq, Repr
/-- The bundles from an address on, of a group of which those before `from'` have issued: these the format register does not check
again (R200, R279). -/
def parseGroup (rd : Nat → W32) (hdr : List Byte) (f : W32) (from' : Nat) : Nat → Nat → Nat → List Bundle → Group
  | 0, addr, _, acc => ⟨acc, some (addr, 0, 8)⟩
  | fuel + 1, addr, used, acc =>
    match parseBundle (fun o => rd (addr + o)) hdr (if addr < from' then none else some f) addr with
    | .bad n sub => ⟨acc, some (addr, n, sub)⟩
    | .good b =>
      match againstEarlier acc b used with
      | some sub => ⟨acc, some (addr, (slotsOf b.mask).headD 0, sub)⟩
      | none =>
        if b.last then ⟨acc ++ [b], none⟩ else parseGroup rd hdr f from' fuel (addr + b.len) (used + b.len) (acc ++ [b])
/-- The text of a context's crew on its die; beyond it, zero (R264). -/
def State.textWord (s : State) (cx : Nat) (a : Nat) : W32 :=
  match (s.ctx cx).crew with
  | none => 0
  | some id => BitVec.ofNat 32 (s.num (textKey id (dieOf cx) (a % 2 ^ 64)) 4)
/-- The group that begins at an address of a context's text, of which the bundles before another address have issued. -/
def State.groupRest (s : State) (cx : Nat) (a from' : Word) : Group :=
  parseGroup (s.textWord cx) s.fwHeader (s.ctx cx).f from'.toNat 13 a.toNat 0 []
/-- The group that begins at an address of a context's text. -/
def State.groupAt (s : State) (cx : Nat) (a : Word) : Group := s.groupRest cx a a

end Sys2Proof.Machine
end

