-- ==== Sys2Proof/Machine/Isolate.lean ====
section
/-! DEFINITION. What clears a partition: its buffers, contexts, caches and scratch, its crews and its tenants' frames
(R68, R109, R113), and the moves of a TDISP interface into ERROR and out of a stop. -/

namespace Sys2Proof.Machine

/-- Package cores of a partition, its tenants, and its crews. -/
def State.partCores (s : State) (p : Nat) : List Nat :=
  ((List.range 96).filter (s.partHas p)).flatMap fun c => (List.range 4).map (4 * c + ·)
def State.partTenants (s : State) (p : Nat) : List Nat :=
  (List.range 64).filter fun t => s.tenantValid t && s.tenantPart t == p
def State.partCrews (s : State) (p : Nat) : List (Nat × Crew) := s.pilot.crews.filter fun e => e.2.part == some p

/-- The typed buffers of a core read zero, and its bays' tags are zero (R192). -/
def State.zeroBuffers (s : State) (core : Nat) : State :=
  (s.zeroRange (bufKey core 0 0) (2 ^ 24)).modCore core fun k => { k with bays := [] }
/-- The core cache and the translation caches of a core are emptied. -/
def State.clearCaches (s : State) (core : Nat) : State :=
  ({ s with atc := s.atc.filter fun e => e.owner != Requester.core core && e.owner != Requester.bulk core }).dropCache core
/-- The granules of a scratch way of a die become invalid: it reads zero (R156, R157). -/
def State.clearScratch (s : State) (d w : Nat) : State :=
  let o := d * 2 ^ 29 + w * 0x1800000
  let s := s.zeroRange (scratchKey o) 0x1800000
  s.modTier fun t =>
    { t with scrHeld := t.scrHeld.filter fun e => !(decide (o ≤ 64 * e.1) && decide (64 * e.1 < o + 0x1800000))
             scrMark := t.scrMark.filter fun e => !(decide (o ≤ 64 * e.1) && decide (64 * e.1 < o + 0x1800000)) }
def State.clearPartScratch (s : State) (p : Nat) : State :=
  (List.range 4).foldl (fun s d =>
    ((List.range 16).filter (hasBit (s.regBits (rStackSplit p d) 15 0))).foldl (fun s w => s.clearScratch d w) s) s
/-- Every crew of a partition ends for a reason. -/
def State.endCrews (s : State) (p reason : Nat) : State :=
  (s.partCrews p).foldl (fun s e => s.failCrew e.1 reason 0xFFFF) s
/-- Every frame of a tenant enters SCRUB, but those RETIRED, which only ASSIGN moves (R68, R164). -/
def State.scrubTenant (s : State) (t : Nat) : State :=
  (s.tier.frames.filter fun e => e.2.owned && e.2.owner == t && e.2.state != .retired).foldl (fun s e => s.scrubFrame e.1) s

/-- Zeroing and scrubbing of a partition (R68). -/
def State.wipe (s : State) (p : Nat) : State :=
  let s := s.endCrews p 0x0A
  let s := (s.partCores p).foldl (fun s c => s.zeroBuffers c) s
  let s := s.clearPartScratch p
  (s.partTenants p).foldl (fun s t => s.scrubTenant t) s
def State.setTdisp (s : State) (vf st : Nat) : State := { s with tdisp := Map.set 0 s.tdisp vf st }
/-- An interface falls into ERROR: its partition is wiped, its tenants' laws are unloaded, and its function sends no request any
more, so that no act waits for a translation of it (R68, R83). While a STOP_INTERFACE is under way it stays so. -/
def State.interfaceError (s : State) (vf : Nat) : State :=
  if frozenTdisp (s.tdispState vf) then
    let p := vf - 1
    let s := (s.partTenants p).foldl (fun s t => s.unloadLaw t) s
    ((s.wipe p).setTdisp vf (if 4 ≤ s.tdispState vf then 7 else 3)).supply
      (fun w => match w with | .page _ fn _ _ _ => fn == vf | _ => false) []
  else s
/-- A frozen item of R68 is written: nothing changes and the interface falls into ERROR. -/
def State.frozenWrite (s : State) (p : Nat) : State := s.interfaceError (p + 1)
/-- The TDISP message code of STOP_INTERFACE's response in the outbox. -/
def tdispStopped : Nat := 3
/-- Stops whose scrubbing is complete answer, and their interfaces are unlocked (R68). -/
def State.finishStops (s : State) : State :=
  (s.tdisp.filter (4 < ·.2)).foldl (fun s e =>
    let ts := s.partTenants (e.1 - 1)
    if s.tier.frames.any fun f => f.2.state == .scrub && f.2.owned && ts.contains f.2.owner then s
    else (s.setTdisp e.1 0).send (.tdisp e.1 tdispStopped)) s

end Sys2Proof.Machine
end

