-- ==== Sys2Proof/Machine/TierEvents.lean ====
section
/-! DEFINITION. Scarab's events (R162 to R168): fetches, evictions and scrubs that end, the FMAP commands, and the way
masks, splits and clears of the stacks (R153 to R158). -/

namespace Sys2Proof.Machine

/- Migrations that count a frame (R168) -/
/-- The frame has left its wait: a `mig` that has come to it counts it; one that has not yet keeps, for when it does, whether
the deadline had passed as the frame became RESIDENT (`slip`: by a move or a scrub). -/
def State.countMig (s : State) (f : Nat) (slip : Bool) : State :=
  let late (dl cx : Nat) : Bool := slip && decide (dl < (s.ctx cx).tick)
  let note (m : MigSeen) : MigSeen :=
    if m.there.contains f || m.since.any (·.1 == f) then m else { m with since := m.since ++ [(f, late m.deadline m.cx)] }
  let s' := s.modTier fun t => { t with migs := t.migs.filter (·.frame != f), migSeen := t.migSeen.map note }
  (s.tier.migs.filter (·.frame == f)).foldl (fun s w => s.countOne w (late w.deadline w.cx)) s'

/-- Waiting fetches are tried again, and what waits for a HBM frame (R123, R166). -/
def State.pumpFetch (s : State) : State :=
  ((s.tier.fetch.filter fun f => (s.frame f).state == .absent).foldl (fun s f => s.fetchFrame f) s).supply (· == .room) []

/- Backing copies (R162, R164) -/
/-- The 16 pages of a host backing copy, translated under the owner's function and PASID. -/
def State.backPages (s : State) (e : Frame) (perm : Perm) : State × List (Option Nat) :=
  (List.range 16).foldl (fun (s, l) i =>
    let (s, r) := s.askIommu (.scarab (homeDie e.hbm)) (some e.owner) (e.backing.toNat + 4096 * i) perm
    (s, l ++ [r])) (s, [])
/-- The backing bytes come to the HBM frame; false when a read of them faults. A frame without a backing copy has none
to read. -/
def State.fromBacking (s : State) (e : Frame) : State × Bool :=
  match e.kind with
  | 1 =>
    let (s, ps) := s.backPages e .r
    if ps.any (·.isNone) then (s, false)
    else ((ps.zipIdx).foldl (fun s (p, i) => s.copyRange (hostKey (p.getD 0)) (hbmKey e.hbm (4096 * i)) 4096) s, true)
  | 2 => (s.copyRange (peerBacking e) (hbmKey e.hbm 0) 65536, true)
  | _ => (s, false)
/-- A granule of a HBM frame that a copy cannot read (R170, R395). -/
def State.hbmBad (s : State) (h : Nat) : Bool :=
  s.tier.hbmMark.any fun e => e.1 / 1024 == h && (e.2.poison || e.2.data == 2)
/-- The HBM bytes go to the backing copy; false when an uncorrectable mark is read. A page without a write permission is
not written (see the log). -/
def State.toBacking (s : State) (e : Frame) : State × Bool :=
  if s.hbmBad e.hbm then (s, false)
  else match e.kind with
    | 1 =>
      let (s, ps) := s.backPages e .w
      ((ps.zipIdx).foldl (fun s (p, i) => match p with
        | some p => s.copyRange (hbmKey e.hbm (4096 * i)) (hostKey p) 4096
        | none => s) s, true)
    | 2 => (((s.needBacking e).askBacking e true).copyRange (hbmKey e.hbm 0) (peerBacking e) 65536, true)
    | _ => (s, true)
def State.cleanHbm (s : State) (h : Nat) : State :=
  s.modTier fun t => { t with hbmMark := t.hbmMark.filter fun e => e.1 / 1024 != h }
/-- A HBM frame is zeroed with fresh ECC and returns to the free list. -/
def State.freeHbm (s : State) (h : Nat) : State := ((s.zeroRange (hbmKey h 0) 65536).cleanHbm h).useHbm h false

/-- The last byte of a fetch performs in HBM; a read that faults or comes poisoned retires the frame (R164). -/
def State.fetchDone (s : State) (frame : Nat) (ok : Bool) : State :=
  let e := s.frame frame
  if e.state ≠ .inFlight || e.out then s
  else
    let s := s.modTier fun t =>
      { t with fetch := t.fetch.filter (· != frame), swap := t.swap.map fun x => (x.1, x.2.filter (· != frame)) }
    let (s, good) := s.fromBacking e
    if ok && good then
      ((s.cleanHbm e.hbm).setFrame frame { e with state := .resident, dirty := false }).countMig frame true
    else
      (((s.setFrame frame { e with state := .retired }).freeHbm e.hbm).countMig frame false).pumpFetch
/-- FRAME_FETCH_DONE. -/
def execFrameFetchDone (frame : Nat) (ok : Bool) (s : State) : Res :=
  .next (s.wholeEvent (.frameFetchDone frame ok) fun s => s.fetchDone frame ok)

/-- The last byte of an eviction performs at the backing tier (R164, R166). -/
def State.evictDone (s : State) (frame : Nat) : State :=
  let e := s.frame frame
  if e.state ≠ .inFlight || !e.out then s
  else if !s.backingOpen e then s.later (.frameEvictDone frame)
  else
    let s := s.modTier fun t => { t with evict := t.evict.filter (· != frame) }
    let (s, good) := s.toBacking e
    let s := s.freeHbm e.hbm
    if good then
      let s := s.setFrame frame { e with state := .absent, dirty := false, out := false }
      (if s.tier.migs.any (·.frame == frame) then s.pumpFetch.fetchFrame frame else s.pumpFetch)
    else ((s.setFrame frame { e with state := .retired, out := false }).countMig frame false).pumpFetch
/-- FRAME_EVICT_DONE. -/
def execFrameEvictDone (frame : Nat) (s : State) : Res :=
  .next (s.wholeEvent (.frameEvictDone frame) fun s => s.evictDone frame)

/-- A HBM frame for something that tries again while it finds none: it starts no eviction while one is on its way. -/
def State.tryHbm (s : State) : State × Option Nat := if s.tier.evict.isEmpty then s.findHbm else (s, s.firstFree)
/-- A frame is scrubbed now: zero with fresh ECC over all 64 KiB (R123, R164); false while no HBM frame is found for it. -/
def State.scrubNow (s : State) (f : Nat) : State × Bool :=
  let e := s.frame f
  match if e.placed then (s, some e.hbm) else s.tryHbm with
  | (s, none) => (s, false)
  | (s, some h) =>
    let s := ((s.useHbm h true).zeroRange (hbmKey h 0) 65536).cleanHbm h
    let s := (s.setFrame f { e with state := .resident, hbm := h, dirty := e.kind != 0 }).leaveScrub f
    ((s.countMig f true).finishStops, true)
/-- FRAME_SCRUB_DONE. -/
def execFrameScrubDone (frame : Nat) (s : State) : Res :=
  .next <|
    if s.tier.scrub.head? ≠ some frame then s
    else if (s.frame frame).state ≠ .scrub then s.leaveScrub frame
    else match s.scrubNow frame with
      | (s, false) => s.later (.frameScrubDone frame)
      | (s, true) => s.pumpFetch

/- FMAP commands (R149, R162) -/
def fmapFrame (v : Word) : Nat := Word.bits v 23 0
def fmapOp (v : Word) : Nat := Word.bits v 63 61
def State.fmapResult (s : State) (r : Nat) : State := s.setRegBits rFmapStat 15 8 r
def State.fmapFinish (s : State) (r : Nat) : State :=
  ((s.fmapResult r).setRegBit rFmapStat 0 false).modTier fun t => { t with cmd := none }
/-- The entry of a frame as PEEK reads it (R162). -/
def Frame.word0 (e : Frame) : Word :=
  let st : Nat := match e.state with | .absent => 0 | .resident => 1 | .inFlight => 2 | .scrub => 3 | .retired => 4
  let hbm := match e.state with | .resident | .inFlight | .scrub => e.hbm | _ => 0
  BitVec.ofNat 64 (st * 2 ^ 61 + e.owned.toNat * 2 ^ 60 + e.owner % 64 * 2 ^ 54 + e.dirty.toNat * 2 ^ 53 + e.recd.toNat * 2 ^ 52 +
    e.cur.toNat * 2 ^ 51 + e.swm.toNat * 2 ^ 50 + e.kind % 4 * 2 ^ 48 + hbm % 2 ^ 24)
/-- The HBM frame of an entry is freed and its stack lines go without write-back. -/
def State.unplace (s : State) (f : Nat) : State :=
  let e := s.frame f
  let s := s.dropGrans fun _ x => x.frame == f
  let s := (s.leaveScrub f).dropFetch f
  if e.placed then s.useHbm e.hbm false else s
/-- ASSIGN with the backing address of its FMAP_ARG; false while a scrub it asks for finds no HBM frame, for which an eviction may
have been started (R166). -/
def State.assign (s : State) (v arg : Word) : State × Bool :=
  let f := fmapFrame v
  let e := s.frame f
  let t := Word.bits v 55 50
  let kind := Word.bits v 60 59
  let scrub : Bool := kind == 0 || (e.owned && e.owner != t) || e.state == .retired
  let new : Frame := { e with owned := true, owner := t, kind := kind, backing := arg, recd := false, cur := false,
                              dirty := false, out := false, state := .absent, hbm := 0 }
  if !scrub then (((s.unplace f).setFrame f new).pumpFetch, true)
  else match if e.placed then (s.unplace f).findHbm else s.tryHbm with
    | (s, some h) => (((((if e.placed then s else s.unplace f).useHbm h true).setFrame f { new with state := .scrub, hbm := h }).scrubFrame f), true)
    | (s, none) => (s, false)
/-- SWM_OFF writes back and invalidates every die's non-home lines of the frame. -/
def State.swmOff (s : State) (f : Nat) : State :=
  let away (s : State) (k : Nat) (x : Gran) : Bool := x.frame == f && keyDie k != homeDie (s.frame f).hbm
  let s := s.writeBackAll (away s)
  let s := s.dropGrans (away s)
  s.setFrame f { s.frame f with swm := false }
/-- The effect of a command, with FMAP_ARG as it stood at its write, on a frame that is not IN_FLIGHT; false while it must wait. -/
def State.fmapDo (s : State) (v arg : Word) : State × Bool :=
  let f := fmapFrame v
  let e := s.frame f
  if e.state = .inFlight then (s, false)
  else match fmapOp v with
    | 1 => s.assign v arg
    | 2 => (((s.unplace f).setFrame f { e with owned := false, state := .absent, hbm := 0 }).pumpFetch, true)
    | 3 => (s.setFrame f { e with swm := true }, true)
    | 4 => (s.swmOff f, true)
    | _ => ((s.setReg rFmapEntry0 e.word0).setReg rFmapEntry1 e.backing, true)
/-- A FMAP_CMD write of one operation, with its refusals. -/
def State.fmapCmd (s : State) (op : Nat) (v : Word) : State :=
  let v := Word.setBits v 63 61 op
  if s.regBit rFmapStat 0 then s.fmapResult 2
  else if op = 1 && Word.bits v 60 59 = 3 then s.fmapResult 3
  else if op = 1 && !s.tenantValid (Word.bits v 55 50) then s.fmapResult 4
  else if op = 1 && Word.bits v 60 59 = 2 && !s.feature fPEER then s.fmapResult 5
  else
    let arg := s.reg rFmapArg
    match s.fmapDo v arg with
    | (s, true) => (s.fmapFinish 1).finishStops
    | (s, false) => ((s.setRegBit rFmapStat 0 true).modTier fun t => { t with cmd := some (v, arg) }).later .fmapCommandDone
/-- A FMAP_CMD write, which is ignored while the register does not answer (R26). -/
def State.fmapWrite (s : State) (op : Nat) (v : Word) : State := s.served 0x30018 fun s => s.fmapCmd op v
def execFmapAssign (v : Word) (s : State) : Res := .next (s.fmapWrite 1 v)
def execFmapRelease (v : Word) (s : State) : Res := .next (s.fmapWrite 2 v)
def execFmapSwmOn (v : Word) (s : State) : Res := .next (s.fmapWrite 3 v)
def execFmapSwmOff (v : Word) (s : State) : Res := .next (s.fmapWrite 4 v)
def execFmapPeek (v : Word) (s : State) : Res := .next (s.fmapWrite 5 v)
/-- FMAP_COMMAND_DONE: a command that waited takes effect. -/
def execFmapCommandDone (s : State) : Res :=
  .next <| match s.tier.cmd with
    | none => s
    | some (v, arg) => match s.fmapDo v arg with
      | (s, true) => (s.fmapFinish 1).finishStops
      | (s, false) => s.later .fmapCommandDone

/- Way masks (R153, R154) -/
/-- Ways that a new mask takes from a tenant on a die. -/
def State.removedWays (s : State) (t d : Nat) (v : Word) : List Nat :=
  (List.range 16).filter fun w => hasBit (s.wayMask t d) w && !hasBit (Word.bits v (16 * d + 15) (16 * d)) w
/-- A tenant's blocks with a granule in a removed way. -/
def State.inRemoved (s : State) (t : Nat) (v : Word) (k : Nat) (x : Gran) : Bool :=
  x.owner == t && s.tier.stack.any fun e =>
    keySet e.1 == keySet k && e.2.frame == x.frame && e.2.blk == x.blk && e.2.owner == t &&
    (s.removedWays t (keyDie e.1) v).contains (keyWay e.1)
def State.clearRemoved (s : State) (t : Nat) (v : Word) : State :=
  let s := s.writeBackAll (s.inRemoved t v)
  s.dropGrans (s.inRemoved t v)
/-- A STACK_WAYS write: the removed ways' blocks are written back and invalidated, and the mask is applied later; a later
write waits. Until it is applied a read of the register returns the old mask (see the log). The masks of a partition whose
interface is locked are frozen (R68). -/
def State.stackWays (s : State) (t : Nat) (v : Word) : State :=
  if s.tenantValid t && s.partFrozen (s.tenantPart t) then s.frozenWrite (s.tenantPart t)
  else if s.tier.ways.any (·.1 == t) then s.modTier fun r => { r with ways := r.ways ++ [(t, v)] }
  else ((s.clearRemoved t v).modTier fun r => { r with ways := r.ways ++ [(t, v)] }).later (.wayMaskApplied t)
/-- STACK_WAYS_WRITE. -/
def execStackWaysWrite (t : Nat) (v : Word) (s : State) : Res := .next (s.served (rStackWays t) fun s => s.stackWays t v)
/-- WAY_MASK_APPLIED. -/
def execWayMaskApplied (t : Nat) (s : State) : Res :=
  .next <| match s.tier.ways.find? (·.1 == t) with
    | none => s
    | some (_, v) =>
      let s := (s.clearRemoved t v).setReg (rStackWays t) v
      let s := s.modTier fun r => { r with ways := r.ways.erase (t, v) }
      match s.tier.ways.find? (·.1 == t) with
      | none => s
      | some (_, v) => (s.clearRemoved t v).later (.wayMaskApplied t)

/- Splits and clears (R155 to R158) -/
/-- Whether any tenant's mask for a die names a way. -/
def State.wayNamed (s : State) (d w : Nat) : Bool := (List.range 64).any fun t => hasBit (s.wayMask t d) w
/-- A way is invalid in every slice of a die. -/
def State.wayInvalid (s : State) (d w : Nat) : Bool :=
  !(s.tier.stack.any fun e => keyDie e.1 == d && keyWay e.1 == w) &&
  !(s.tier.scrHeld.any fun e => 64 * e.1 / 2 ^ 29 == d && scratchWay (64 * e.1) == w)
/-- A STACK_SPLIT write: bit 63 clears REJECT where it is 1; SCRATCH takes its new value when R158 lets it. While the partition's
interface is locked the write changes nothing but REJECT, which it sets, and the interface falls into ERROR (R68). -/
def State.stackSplit (s : State) (p die : Nat) (v : Word) : State :=
  let k := rStackSplit p die
  let frozen := s.partFrozen p
  let s := if v.getLsbD 63 && !frozen then s.setRegBit k 63 false else s
  let old := s.regBits k 15 0
  let new := Word.bits v 15 0
  let others := (List.range 32).foldl (fun m q => if q = p then m else m ||| s.regBits (rStackSplit q die) 15 0) 0
  let changed := (List.range 16).filter fun w => hasBit old w != hasBit new w
  let ok := changed.all fun w => s.wayInvalid die w && (hasBit old w || !s.wayNamed die w)
  if frozen then (s.frozenWrite p).setRegBit k 63 true
  else if new &&& others ≠ 0 || !ok then s.setRegBit k 63 true
  else s.setRegBits k 15 0 new
/-- STACK_SPLIT_WRITE. -/
def execStackSplitWrite (p die : Nat) (v : Word) (s : State) : Res := .next (s.served (rStackSplit p die) fun s => s.stackSplit p die v)
/-- A STACK_WAYCLR write. -/
def State.stackWayclr (s : State) (die : Nat) (v : Word) : State :=
  let ways := (List.range 16).filter fun w => v.getLsbD w
  let scratch := s.scratchMask die
  if ways.any fun w => !hasBit scratch w && s.wayNamed die w then s.setRegBit (rStackSplit 0 die) 63 true
  else
    let inWays (s : State) (k : Nat) (x : Gran) : Bool := keyDie k == die && s.tier.stack.any fun e =>
      keySet e.1 == keySet k && e.2.frame == x.frame && e.2.blk == x.blk && ways.contains (keyWay e.1)
    let s := s.writeBackAll (inWays s)
    let s := s.dropGrans (inWays s)
    (ways.filter (hasBit scratch)).foldl (fun s w => s.clearScratch die w) s
/-- STACK_WAYCLR. -/
def execStackWayclr (die : Nat) (v : Word) (s : State) : Res := .next (s.served 0x30A00 fun s => s.stackWayclr die v)

end Sys2Proof.Machine
end

