-- ==== Sys2Proof/Machine/PilotMem.lean ====
section
/-! DEFINITION. How the Pilot reaches memory as the system under a tenant's PASID (R50, R163), the record tables (R130,
R131, R142), and completion records (R72, R143). -/

namespace Sys2Proof.Machine

/-- A frame that the system reads or writes is brought into HBM first, as Scarab fetches any other frame (R118, R163);
a frame for which no HBM frame can be found stays at its backing copy. -/
def State.bringIn (s : State) (f : Nat) : State :=
  let e := s.frame f
  let s := if e.state = .inFlight && e.out then s.evictDone f else s
  let s := if (s.frame f).state = .absent && (s.frame f).kind != 0 then s.fetchFrame f else s
  if (s.frame f).state = .inFlight then s.fetchDone f true
  else if (s.frame f).state = .scrub then (s.scrubNow f).1
  else s

/-- Where a byte run inside one 64-byte granule lies. -/
inductive Spot where
  | frame (f off : Nat)
  | scratch (o : Nat)
  | host (a : Nat)
  deriving DecidableEq, Repr
/-- The place of n bytes at a, within one granule, for the Pilot acting for a tenant (none: the system): its translation,
its class, its frame's RETIRED check; an error is the fault code (R163). -/
def State.spot (s : State) (t : Option Nat) (a : Nat) (perm : Perm) : State × Except Nat Spot :=
  match s.askIommu .pilot t a perm with
  | (s, none) => (s, .error 0x06)
  | (s, some p) =>
    match s.classify p with
    | .host h => (s, .ok (.host h))
    | .stack o => (s, if s.scratchOk (t.map s.tenantPart) o then .ok (.scratch o) else .error 0x06)
    | .frame f off =>
      let s := s.bringIn f
      (s, if (s.frame f).state = .retired then .error 0x0A else .ok (.frame f off))
/-- Runs of a range that stay within one granule each. -/
def granRuns (a : Nat) : Nat → Nat → List (Nat × Nat)
  | 0, _ => []
  | fuel + 1, n =>
    if n = 0 then []
    else
      let k := Nat.min n (64 - a % 64)
      (a, k) :: granRuns (a + k) fuel (n - k)
def runsOf (a n : Nat) : List (Nat × Nat) := granRuns a (n / 64 + 2) n
/-- Every run of a range is placed, or the first fault code is given. -/
def State.spots (s : State) (t : Option Nat) (perm : Perm) : List (Nat × Nat) → State × Except Nat (List (Spot × Nat))
  | [] => (s, .ok [])
  | (a, k) :: r =>
    match s.spot t a perm with
    | (s, .error e) => (s, .error e)
    | (s, .ok sp) =>
      match s.spots t perm r with
      | (s, .error e) => (s, .error e)
      | (s, .ok l) => (s, .ok ((sp, k) :: l))
/-- Where n bytes of a frame without a HBM frame lie at its backing copy, with the requests that reaching them takes; none when
there is no such copy, or no permission for it (R33, R34, R162). -/
def State.backKey (s : State) (f off n : Nat) (write : Bool) : State × Option Nat :=
  let e := s.frame f
  match e.kind with
  | 1 => let (s, r) := s.askIommu .pilot (some e.owner) (e.backing.toNat + off) (if write then .w else .r); (s, r.map hostKey)
  | 2 => ((s.needBacking e).askPeer e.peerPkg (e.peerAddr + off) n write, some (peerBacking e + off))
  | _ => (s, none)
def State.readSpot (s : State) (sp : Spot) (n : Nat) : State × Except Nat (List Byte) :=
  let take (off : Nat) (g : Got) : State × Except Nat (List Byte) :=
    (g.s, if g.poison || g.dead then .error 0x0A else .ok ((g.bytes.drop (off % 64)).take n))
  match sp with
  | .host a => (s, .ok (s.bytes (hostKey a) n))
  | .scratch o => take o (s.readScratch o)
  | .frame f off =>
    match (s.frame f).state with
    | .resident => take off (s.readHome f (off / 64) 0xFFFF)
    | .scrub => (s, .ok (List.replicate n 0))
    | _ =>
      match s.backKey f off n false with
      | (s, some k) => (s, .ok (s.bytes k n))
      | (s, none) => (s, .error 0x06)
/-- Bytes are written at a place; a frame that still stands in SCRUB is waited for (R123). -/
def State.writeSpot (s : State) (sp : Spot) (bs : List Byte) : State × Bool :=
  let ok (g : Got) : State × Bool := (g.s, !(g.poison || g.dead))
  match sp with
  | .host a => (s.putBytes (hostKey a) bs, true)
  | .scratch o => ok (s.storeAcc none 0xFFFF ⟨o, bs.length, none, 4, o / 2 ^ 29⟩ bs (2 ^ bs.length - 1))
  | .frame f off =>
    match (s.frame f).state with
    | .resident => ok (s.storeAcc none 0xFFFF ⟨off, bs.length, some f, 1, homeDie (s.frame f).hbm⟩ bs (2 ^ bs.length - 1))
    | .scrub => (s.want .room, true)
    | _ =>
      match s.backKey f off bs.length true with
      | (s, some k) => (s.putBytes k bs, true)
      | (s, none) => (s, false)
def State.readSpots (s : State) (acc : List Byte) : List (Spot × Nat) → State × Except Nat (List Byte)
  | [] => (s, .ok acc)
  | (sp, k) :: r =>
    match s.readSpot sp k with
    | (s, .error e) => (s, .error e)
    | (s, .ok bs) => s.readSpots (acc ++ bs) r
def State.writeSpots (s : State) (bs : List Byte) : List (Spot × Nat) → State × Bool
  | [] => (s, true)
  | (sp, k) :: r =>
    match s.writeSpot sp (bs.take k) with
    | (s, false) => (s, false)
    | (s, true) => s.writeSpots (bs.drop k) r
/-- n bytes at a device address, or the fault code of the read. -/
def State.sysRead' (s : State) (t : Option Nat) (a n : Nat) : State × Except Nat (List Byte) :=
  if n = 0 then (s, .ok [])
  else if (extentFault a n).isSome then (s, .error 0x05)
  else match s.spots t .r (runsOf a n) with
    | (s, .error e) => (s, .error e)
    | (s, .ok l) => s.readSpots [] l
/-- Bytes to a device address; none of them when some byte's translation faults or its frame is RETIRED. -/
def State.sysWrite' (s : State) (t : Option Nat) (a : Nat) (bs : List Byte) : State × Option Nat :=
  if bs.isEmpty then (s, none)
  else if (extentFault a bs.length).isSome then (s, some 0x05)
  else match s.spots t .w (runsOf a bs.length) with
    | (s, .error e) => (s, some e)
    | (s, .ok l) => match s.writeSpots bs l with
      | (s, true) => (s, none)
      | (s, false) => (s, some 0x0A)

/- The record tables -/
def State.seqNum (s : State) (i off n : Nat) : Nat := s.num (seqKey (128 * i + off)) n
def State.putSeq (s : State) (i off n v : Nat) : State := s.putNum (seqKey (128 * i + off)) n v
/-- STATE, HOLD and REASON of a sequence record (R131). -/
def State.seqState (s : State) (i : Nat) : Nat := s.seqNum i 0 8 % 16
def State.seqHold (s : State) (i : Nat) : Bool := hasBit (s.seqNum i 0 8) 4
def State.setSeqState (s : State) (i st reason : Nat) (hold : Bool) : State :=
  s.putSeq i 0 8 (reason * 65536 + hold.toNat * 16 + st)
def seqPENDING : Nat := 1
def seqACTIVE : Nat := 2
def seqRETIRED : Nat := 3
def seqERROR : Nat := 4
def State.launchNum (s : State) (t i off n : Nat) : Nat := s.num (launchKey (32768 * t + 64 * i + off)) n
def State.setLaunch (s : State) (t i st reason : Nat) : State :=
  s.putNum (launchKey (32768 * t + 64 * i)) 8 (reason * 65536 + st)
def State.launchState (s : State) (t i : Nat) : Nat := s.launchNum t i 0 8 % 16
def launchREADY : Nat := 1
def launchTAKEN : Nat := 2
def launchDONE : Nat := 3
def launchFAILED : Nat := 4
/-- Records of a table whose first byte holds a state, in ascending index: base key, record size, first and count. -/
def State.recordsIn (s : State) (key size first count st : Nat) : List Nat :=
  (s.mem.filter fun e => decide (key + size * first ≤ e.1) && decide (e.1 < key + size * (first + count)) &&
    (e.1 - key) % size == 0 && e.2.toNat % 16 == st).map fun e => (e.1 - key) / size
def State.launches (s : State) (t st : Nat) : List Nat :=
  (s.recordsIn (launchKey 0) 64 (512 * t) 512 st).map (· - 512 * t)
def State.seqRange (s : State) (p : Nat) : Nat × Nat := (s.regBits (rSeqRange p) 15 0, s.regBits (rSeqRange p) 32 16)
def State.seqsIn (s : State) (p st : Nat) : List Nat :=
  let (b, c) := s.seqRange p
  s.recordsIn (seqKey 0) 128 b c st

/- Candidates for placement -/
def State.modPilot (s : State) (f : Pilot → Pilot) : State := { s with pilot := f s.pilot }
/-- Keys of what is kept for a waiting candidate: a launch record, a plan's kernel, a saved crew. -/
def launchGate (t i : Nat) : Nat := t * 512 + i
def planGate (n : Nat) : Nat := 2 ^ 20 + n
def crewGate (id : Nat) : Nat := 2 ^ 21 + id
/-- A candidate is none any more, placed or gone: its residency gate's first test, what was read of its image, and what came
for it while it waited go with it (R142, R147). -/
def State.dropTry (s : State) (key : Nat) : State :=
  (s.dropWait (.item key)).modPilot fun p =>
    { p with gates := p.gates.filter (·.1 != key), images := p.images.filter (·.1 != key) }

/-- A completion record is written, with its interrupt; neither when the write faults (R72, R143). -/
def State.writeRecord (s : State) (r : Rec) : State :=
  match s.sysWrite' r.tenant r.addr r.bytes with
  | (s, some _) => s
  | (s, none) =>
    let fn := (s.fnPasid r.tenant).1
    let s := s.send (.record fn r.addr r.bytes)
    if r.notify && s.feature fNOTIFY then s.send (.msix fn 0) else s
/-- A completion record that lacks nothing is written; another waits, apart from what it reports (R52, R143). -/
def State.tryRecord (s : State) (r : Rec) : State :=
  match s.whole (.record r.id) fun s => (s.writeRecord r, ()) with
  | (s, none) => s
  | (s, some _) => s.modPilot fun p => { p with records := p.records.filter (·.id != r.id) }
/-- Completion records that wait are tried again, each for itself. -/
def State.pumpRecords (s : State) : State := s.pilot.records.foldl State.tryRecord s
/-- A completion record, and its interrupt (R72, R143): nothing is sent when DONE is 0. -/
def State.complete (s : State) (t : Option Nat) (idx kind st reason core gen fin done : Nat) (notify : Bool) : State :=
  if done = 0 then s
  else
    let bs := leBytes 2 idx ++ leBytes 1 kind ++ leBytes 1 st ++ leBytes 1 reason ++ leBytes 1 (t.getD 0) ++ leBytes 2 core ++
      leBytes 4 gen ++ leBytes 4 fin
    let (id, s) := s.newId
    let r : Rec := ⟨id, t, done, bs, notify⟩
    (s.modPilot fun p => { p with records := p.records ++ [r] }).tryRecord r
/-- A launch record ends (R142): its state, and its completion record. -/
def State.endLaunch (s : State) (t i st reason core : Nat) : State :=
  let done := s.launchNum t i 56 8
  let notify := hasBit (s.launchNum t i 24 8) 4
  ((s.dropTry (launchGate t i)).setLaunch t i st reason).complete (some t) i 2 st reason core 0 0 done notify

end Sys2Proof.Machine
end

