-- ==== Sys2Proof/Machine/Plan.lean ====
section
/-! DEFINITION. Plans, sequences and Mayfly (R128 to R141), and the end of a crew (R140, R142, R143, R178). -/

namespace Sys2Proof.Machine

/- Plan registers (R128) -/
def State.plan (s : State) (n off : Nat) : Word := s.reg (rPlan n off)
def State.planValid (s : State) (n : Nat) : Bool := s.regBit (rPlan n 0) 63
def State.planTenant (s : State) (n : Nat) : Nat := s.regBits (rPlan n 0) 45 40
def State.planPrio (s : State) (n : Nat) : Nat := s.regBits (rPlan n 0) 50 48
def State.planKernels (s : State) (n : Nat) : Nat := s.regBits (rPlan n 0) 33 32
def State.planBatch (s : State) (n : Nat) : Nat := s.regBits (rPlan n 0) 26 16
def State.planTpf (s : State) (n : Nat) : Nat := s.regBits (rPlan n 0) 15 0
def State.planFrames (s : State) (n : Nat) : Nat := s.regBits (rPlan n 8) 63 32
def State.planBase (s : State) (n : Nat) : Nat := (s.reg (rPlan n 0x10)).toNat
def State.planBuf (s : State) (n : Nat) : Nat := (s.reg (rPlan n 0x18)).toNat
def State.planStep (s : State) (n : Nat) : Nat := (s.reg (rPlan n 0x28)).toNat
def State.setPlanStep (s : State) (n v : Nat) : State := s.setReg (rPlan n 0x28) (BitVec.ofNat 64 v)
def State.planTenants (s : State) (t : Nat) : List Nat :=
  (List.range 256).filter fun n => s.planValid n && s.planTenant n == t

/-- Pool frames of a plan in use, with the record that holds each. -/
def State.poolOf (s : State) (n : Nat) : List (Nat × Nat) :=
  (s.pilot.pool.filter fun e => e.1 / 2 ^ 32 == n).map fun e => (e.1 % 2 ^ 32, e.2 - 1)
/-- FREE: the frames at VALID, kept in PLAN_STAT, without those in use. -/
def State.planFree (s : State) (n : Nat) : Nat := s.regBits (rPlan n 0x20) 31 0 - (s.poolOf n).length
def insertNat (x : Nat) : List Nat → List Nat
  | [] => [x]
  | y :: r => if x < y then x :: y :: r else if x = y then y :: r else y :: insertNat x r
/-- Records of a plan that hold frames (ACTIVE, or RETIRED or ERROR with HOLD), in ascending index. -/
def State.planHeld (s : State) (n : Nat) : List Nat := (s.poolOf n).foldl (fun l e => insertNat e.2 l) []
/-- The lowest-numbered free frames of a pool. -/
def State.freeFrames (s : State) (n need : Nat) : List Nat :=
  let used := (s.poolOf n).map (·.1)
  ((List.range (used.length + need)).filter fun f => !used.contains f && decide (f < s.planFrames n)).take need
def State.freePool (s : State) (n i : Nat) : State :=
  s.modPilot fun p => { p with pool := p.pool.filter fun e => !(e.1 / 2 ^ 32 == n && e.2 == i + 1) }
def State.stepRun (s : State) (n : Nat) : Option StepRun := (s.pilot.steps.find? (·.1 == n)).map (·.2)
def State.setStep (s : State) (n : Nat) (r : StepRun) : State :=
  s.modPilot fun p => { p with steps := Map.put p.steps n r }
def State.clearStep (s : State) (n : Nat) : State :=
  ((s.dropTry (planGate n)).dropWait (.boundary n)).modPilot fun p => { p with steps := p.steps.filter (·.1 != n) }
/-- The last crew of the step has completed, or the step has failed: its boundary is due (R135, R140). -/
def StepRun.isOver (r : StepRun) (kernels : Nat) : Bool := r.failed || decide (kernels ≤ r.kernel)

/-- A record ends in ERROR with HOLD set. -/
def State.failSeq (s : State) (i reason : Nat) : State := s.setSeqState i seqERROR reason true
def State.seqNotify (s : State) (i : Nat) : Bool := hasBit (s.seqNum i 8 8) 20
/-- The completion record of a sequence (R143); its core is the one of R140, if it ended so. -/
def State.completeSeq (s : State) (t i : Nat) : State :=
  let core := match s.pilot.errCore.find? (·.1 == i) with | some (_, c) => c | none => 0xFFFF
  let s := s.modPilot fun p => { p with errCore := p.errCore.filter (·.1 != i) }
  s.complete (some t) i 1 (s.seqState i) (s.seqNum i 2 1) core (s.seqNum i 100 4) (s.seqNum i 120 8 % 2 ^ 32)
    (s.seqNum i 88 8) (s.seqNotify i)

/- The step boundary (R135) -/
/-- Advance. -/
def State.advance (s : State) (slots : List SeqSlot) : State :=
  slots.foldl (fun s sl =>
    if s.seqState sl.seq ≠ seqACTIVE then s
    else if sl.out = 0xFFFFFFFF || sl.took then s.putSeq sl.seq 96 4 (s.seqNum sl.seq 96 4 + 1)
    else s.failSeq sl.seq 0xC3) s
/-- Return of one record's frames. -/
def State.returnSeq (s : State) (n i : Nat) : State :=
  let s := s.freePool n i
  let s := s.putSeq i 120 8 (s.planStep n - 1)
  (s.setSeqState i (s.seqState i) (s.seqNum i 2 1) false).completeSeq (s.planTenant n) i
def State.returnAll (s : State) (n : Nat) : State :=
  ((s.planHeld n).filter fun i => s.seqHold i).foldl (fun s i => s.returnSeq n i) s

/-- What admission finds: a record that passes with its need, an error reason, or the end of admission (R136). -/
inductive Admit where
  | pass (need : Nat)
  | fail (reason : Nat)
  | stop
  deriving DecidableEq, Repr
def State.admitTest (s : State) (n p i : Nat) : Admit :=
  let ctl := s.seqNum i 8 8
  let t := s.planTenant n
  let plen := s.seqNum i 24 4
  let maxnew := s.seqNum i 28 4
  let need := (plen + maxnew + s.planTpf n - 1) / s.planTpf n
  if ctl % 64 ≠ t || !s.tenantValid t || s.tenantPart t ≠ p || decide (8 < ctl / 2 ^ 16 % 16) || plen = 0 || maxnew = 0 || ctl / 2 ^ 21 ≠ 0 ||
      ctl / 64 % 4 ≠ 0 || s.seqNum i 76 4 ≠ 0 || s.seqNum i 16 8 % 4 ≠ 0 || s.seqNum i 64 8 % 8 ≠ 0 ||
      s.seqNum i 80 8 % 4 ≠ 0 || s.seqNum i 88 8 % 16 ≠ 0 then .fail 0xC5
  else if s.planFrames n < need || s.seqNum i 72 4 < need then .fail 0xC4
  else if s.planBatch n ≤ (s.planHeld n).length || s.planFree n < need then .stop
  else .pass need
/-- A record refused at admission, or within its own admission (R132). -/
def State.refuseSeq (s : State) (n i reason : Nat) : State :=
  let s := s.putSeq i 100 4 0
  let s := s.putSeq i 120 8 (s.planStep n)
  (s.setSeqState i seqERROR reason false).completeSeq (s.planTenant n) i
def State.admitOne (s : State) (n i need : Nat) : State :=
  let t := s.planTenant n
  let fs := s.freeFrames n need
  let s := s.setSeqState i seqACTIVE 0 false
  let s := s.modPilot fun p => { p with pool := fs.foldl (fun m f => Map.put m (n * 2 ^ 32 + f) (i + 1)) p.pool }
  let s := [96, 100, 104].foldl (fun s o => s.putSeq i o 4 0) s
  let s := ((s.putSeq i 108 4 need).putSeq i 112 8 (s.planStep n)).putSeq i 120 8 0
  match s.sysWrite' (some t) (s.seqNum i 64 8) (fs.flatMap fun f => leBytes 8 (s.planBase n + 65536 * f)) with
  | (s, none) => s
  | (s, some _) => (s.freePool n i).refuseSeq n i 0xC5
def State.admitAll (s : State) (n p : Nat) : List Nat → State
  | [] => s
  | i :: r =>
    if s.seqNum i 9 1 ≠ n then s.admitAll n p r
    else match s.admitTest n p i with
      | .stop => s
      | .fail reason => (s.refuseSeq n i reason).admitAll n p r
      | .pass need => (s.admitOne n i need).admitAll n p r

/-- The input token of a slot: PROMPT[p], or LAST (R133); none when the prompt cannot be read. -/
def State.slotToken (s : State) (t i : Nat) : State × Option Nat :=
  let p := s.seqNum i 96 4
  if p < s.seqNum i 24 4 then
    match s.sysRead' (some t) (s.seqNum i 16 8 + 4 * p) 4 with
    | (s, .ok bs) => (s, some (leAt bs 0 4))
    | (s, .error _) => (s, none)
  else (s, some (s.seqNum i 104 4))
/-- The slots of a step entry, with their bytes (R133). -/
def State.slotsFor (s : State) (n : Nat) : List Nat → State × List (SeqSlot × List Byte)
  | [] => (s, [])
  | i :: r =>
    match s.slotToken (s.planTenant n) i with
    | (s, none) => (s.failSeq i 0xC5).slotsFor n r
    | (s, some tok) =>
      let p := s.seqNum i 96 4
      let out := if s.seqNum i 24 4 - 1 ≤ p then s.seqNum i 100 4 else 0xFFFFFFFF
      let first := if s.seqNum i 112 8 = s.planStep n then 1 else 0
      let bs := leBytes 2 i ++ leBytes 2 first ++ leBytes 4 p ++ leBytes 4 tok ++ leBytes 4 out ++
        leBytes 8 (s.seqNum i 64 8) ++ leBytes 4 (s.seqNum i 108 4) ++ leBytes 4 0
      let (s, l) := s.slotsFor n r
      (s, (⟨i, out, false⟩, bs) :: l)
/-- A step boundary of a plan whose tenant holds its partition's slice (R135, R136, R133). -/
def State.boundary (s : State) (n : Nat) : State :=
  let t := s.planTenant n
  let p := s.tenantPart t
  let s := match s.stepRun n with
    | none => s
    | some r => (s.advance r.slots).clearStep n
  let s := s.returnAll n
  let s := s.admitAll n p (s.seqsIn p seqPENDING)
  let (s, sl) := s.slotsFor n ((s.planHeld n).filter fun i => s.seqState i == seqACTIVE)
  if sl.isEmpty then s
  else
    let step := s.planStep n
    let head := leBytes 8 step ++ leBytes 4 sl.length ++ leBytes 1 n ++ leBytes 1 t ++ leBytes 2 0 ++ leBytes 8 s.timeNs ++
      List.replicate 40 0
    match s.sysWrite' (some t) (s.planBuf n + 65536 * (step % 2)) (head ++ sl.flatMap (·.2)) with
    | (s, some _) => sl.foldl (fun s e => s.failSeq e.1.seq 0xC9) s
    | (s, none) => (s.setStep n ⟨0, false, sl.map (·.1), false⟩).setPlanStep n (step + 1)

def State.setPart (s : State) (p : Nat) (r : PartRun) : State :=
  s.modPilot fun x => { x with parts := Map.set .start x.parts p r }
/-- The feature word is committed: before that no sequence is admitted and no launch is placed (R58). -/
def State.committed (s : State) : Bool := s.regBit rFeatCommit 0
/-- A boundary that is due runs if its tenant holds the slice; otherwise it waits (R135). One that lacks a translation, or room,
waits for it whole (R52). -/
def State.tryBoundary (s : State) (n : Nat) : State :=
  let run (s : State) : State := (s.whole (.boundary n) fun s => (s.boundary n, ())).1
  if !s.planValid n || !s.committed || !s.holdsSlice (s.planTenant n) then s
  else match s.stepRun n with
    | none => run s
    | some r => if r.isOver (s.planKernels n) then run s else s

/- Crews that fail in a step (R140) -/
/-- Every slot still ACTIVE ends in ERROR, and the step ends. -/
def State.failStep (s : State) (n reason core : Nat) : State :=
  match s.stepRun n with
  | none => s
  | some r =>
    let s := r.slots.foldl (fun s sl =>
      if s.seqState sl.seq = seqACTIVE then
        (s.failSeq sl.seq reason).modPilot fun p => { p with errCore := Map.put p.errCore sl.seq core }
      else s) s
    ((s.setStep n { r with failed := true }).dropTry (planGate n)).tryBoundary n

/- Mayfly (R137) -/
def State.takeToken (s : State) (n i : Nat) (r : StepRun) (token : W32) : State :=
  let t := s.planTenant n
  let gen := s.seqNum i 100 4
  let a := s.seqNum i 80 8 + 4 * gen
  let s := s.setStep n { r with slots := r.slots.map fun sl => if sl.seq = i then { sl with took := true } else sl }
  match s.sysWrite' (some t) a (leBytes 4 token.toNat) with
  | (s, some _) => (s.bump rMayfly 63 48).failSeq i 0xC6
  | (s, none) =>
    let s := s.send (.token (s.fnPasid (some t)).1 a token)
    let s := (s.putSeq i 100 4 (gen + 1)).putSeq i 104 4 token.toNat
    let stopn := s.seqNum i 8 8 / 2 ^ 16 % 16
    if (List.range stopn).any fun j => s.seqNum i (32 + 4 * j) 4 == token.toNat then s.setSeqState i seqRETIRED 0xC1 true
    else if gen + 1 = s.seqNum i 28 4 then s.setSeqState i seqRETIRED 0xC2 true
    else s
/-- A token is posted to Mayfly: taken, or counted as dropped. -/
def State.mayflyPost (s : State) (crew seq : Nat) (token : W32) : State :=
  match (s.crew? crew).bind (·.plan) with
  | none => s.bump rMayfly 15 0
  | some (n, _) =>
    match s.stepRun n with
    | none => s.bump rMayfly 15 0
    | some r =>
      match r.slots.find? (·.seq == seq) with
      | none => s.bump rMayfly 15 0
      | some sl =>
        if sl.out = 0xFFFFFFFF then s.bump rMayfly 47 32
        else if sl.took || s.seqState seq ≠ seqACTIVE then s.bump rMayfly 31 16
        else s.takeToken n seq r token
/-- MAYFLY_POST: it waits while the write of its token lacks something (R52); the core's next `tok` waits with it. -/
def execMayflyPost (crew seq : Nat) (token : W32) (s : State) : Res :=
  .next (s.wholeEvent (.mayflyPost crew seq token) fun s => s.mayflyPost crew seq token)

/- The end of a crew -/
/-- A crew is discarded: it ends without saving, and its launch record returns to the launch list (R116, R22). -/
def State.discardCrew (s : State) (id : Nat) : State :=
  match s.crew? id with
  | none => s
  | some cr =>
    let s := ((s.failCrew id 0 0xFFFF).payOwed id).delCrew id
    match cr.tenant, cr.launch with
    | some t, some i => s.setLaunch t i launchREADY 0
    | _, _ => s
/-- Whether a crew has ended: for a reason, or every member has retired (R178). -/
def Crew.isOver (cr : Crew) : Bool := cr.ending.isSome || cr.retired.length == cr.c * cr.d
/-- CREW_END: the Pilot's completion record, its tags freed; the next kernel, or the step's end (R135, R140, R143, R178). -/
def execCrewEnd (crew : Nat) (s : State) : Res :=
  .next <|
    match s.crew? crew with
    | none => s
    | some cr =>
      if !cr.isOver then s
      else
        let (reason, core) := cr.ending.getD (0, 0xFFFF)
        let s := ((s.payOwed crew).delCrew crew).dropTry (crewGate crew)
        match cr.tenant, cr.launch, cr.plan with
        | some t, some i, _ => s.endLaunch t i (if reason = 0 then launchDONE else launchFAILED) reason core
        | some _, none, some (n, k) =>
          if reason ≠ 0 then s.failStep n reason core
          else
            match s.stepRun n with
            | none => s
            | some r => (s.setStep n { r with kernel := k + 1, placed := false }).tryBoundary n
        | _, _, _ => s.complete none 0 2 (if reason = 0 then launchDONE else launchFAILED) reason core 0 0 cr.done.toNat false

/- Plan registers (R128, R129) -/
/-- Clearing VALID: every ACTIVE sequence ends with 0xC8, and every held frame returns. -/
def State.invalidatePlan (s : State) (n : Nat) : State :=
  let s := ((s.planHeld n).filter fun i => s.seqState i == seqACTIVE).foldl (fun s i => s.failSeq i 0xC8) s
  s.returnAll n
/-- The writable bits of a plan register. -/
def planMask (off : Nat) : Word :=
  if off = 0 then 0x80073F0307FFFFFF
  else if off = 8 then 0xFFFFFFFF00000000
  else if off = 0x10 || off = 0x18 then 0x01FFFFFFFFFFFFFF
  else if 0x30 ≤ off && off < 0x60 then 0xFFFFFFFFFFFFFFFF
  else 0
/-- A write to a plan register, with the refusals of R129. -/
def State.planWrite (s : State) (n off : Nat) (v : Word) : State :=
  let k := rPlan n off
  let m := planMask off
  let ctl := rPlan n 0
  let old := s.reg k
  let new := (old &&& ~~~ m) ||| (v &&& m)
  let valid := s.planValid n
  let s := if off = 0 && v.getLsbD 62 then s.setRegBit ctl 62 false else s
  let reject (s : State) : State := s.setRegBit ctl 62 true
  if m = 0 then s
  else if off = 0 then
    let will := v.getLsbD 63
    let t := Word.bits new 45 40
    let kc := Word.bits new 33 32
    let batch := Word.bits new 26 16
    let fields := 0x00073F0307FFFFFF
    let rej := s.regBit ctl 62
    let s' := (s.setReg ctl new).setRegBit ctl 62 rej
    if will && (!s.tenantValid t || kc = 0 || batch = 0 || Word.bits new 15 0 = 0 || decide (1024 < batch) ||
        s.planFrames n = 0) then reject s
    else if valid && old &&& fields ≠ new &&& fields then reject s
    else if valid && !will then
      (if ((s.stepRun n).map fun r => !r.isOver (s.planKernels n)).getD false then reject s
       else (((s.invalidatePlan n).clearStep n).setReg ctl new).setRegBit ctl 62 rej)
    else if will && !valid then (s'.setPlanStep n 0).setReg (rPlan n 0x20) (BitVec.ofNat 64 (s.planFrames n))
    else s'
  else if valid && old ≠ new then reject s
  else if (off = 0x10 || off = 0x18) && Word.bits v 15 0 ≠ 0 then reject s
  else s.setReg k new
/-- PLAN_WRITE, which is ignored while the register does not answer (R26). -/
def execPlanWrite (n off : Nat) (v : Word) (s : State) : Res := .next (s.served (rPlan n off) fun s => s.planWrite n off v)

end Sys2Proof.Machine
end

