-- ==== Sys2Proof/Machine/Place.lean ====
section
/-! DEFINITION. Kernel images (R174 to R176, R388, R389), where a crew fits and how it is placed as a gang (R39, R110, R146,
R177, R189), residency gates (R147), and the restore of a saved crew (R41, R111, R116). -/

namespace Sys2Proof.Machine

/- Images -/
/-- A row of a loop table: kind and extent (R174). -/
structure Row where
  kind   : Nat
  extent : Nat
  deriving DecidableEq, Repr
/-- A bind entry (R389). -/
structure Bind where
  off   : Nat
  sect  : Nat
  kind  : Nat
  lo    : Nat
  width : Nat
  val   : Nat
  deriving DecidableEq, Repr
structure Image where
  base    : Nat
  barrier : Bool
  /-- `svld bind` has resolved the die-pair values -/
  bound   : Bool
  sizes   : List Nat
  entry   : Nat
  rows    : List Row
  /-- offset and length of text, map, abdata and wbdata -/
  secs    : List (Nat × Nat)
  text    : List Byte
  map     : List Byte
  ab      : List Byte
  wb      : List Byte
  binds   : List Bind
  deriving DecidableEq, Repr
def ceilLog2 (e : Nat) : Nat := if e ≤ 1 then 0 else log2 (e - 1) + 1
def extents (rows : List Row) (kind : Nat) : List Nat := (rows.filter (·.kind == kind)).map (·.extent)
def product (l : List Nat) : Nat := l.foldl (· * ·) 1
def Image.c (i : Image) : Nat := product (extents i.rows 1)
def Image.d (i : Image) : Nat := product (extents i.rows 2)
/-- Loop counters, innermost T row first (R176). -/
def Image.lcs (i : Image) : List Nat := (extents i.rows 0).reverse
/-- A member's digits packed from the innermost level up (R176). -/
def packDigits : List Nat → Nat → Nat → Nat
  | [], _, _ => 0
  | e :: r, i, sh => i % e * 2 ^ sh + packDigits r (i / e) (sh + ceilLog2 e)
def Image.indices (im : Image) (i j : Nat) : Nat :=
  packDigits (extents im.rows 1).reverse i 0 + packDigits (extents im.rows 2).reverse j 0 * 65536
/-- The limits of R174 and R175. -/
def rowsOk (rows : List Row) (reserved : Bool) : Bool :=
  !reserved && rows.all (fun r => decide (r.kind ≤ 2) && decide (1 ≤ r.extent)) &&
  decide ((extents rows 0).length ≤ 6) && decide (product (extents rows 1) ≤ 96) && decide (product (extents rows 2) ≤ 4) &&
  decide (((extents rows 1).map ceilLog2).sum ≤ 16) && decide (((extents rows 2).map ceilLog2).sum ≤ 16)
def rowOf (bs : List Byte) (i : Nat) : Row := ⟨leAt bs (8 * i + 4) 1 % 4, leAt bs (8 * i) 4⟩
def rowReserved (bs : List Byte) (i : Nat) : Bool := leAt bs (8 * i + 4) 4 / 4 != 0
def bindOf (bs : List Byte) (i : Nat) : Bind :=
  ⟨leAt bs (16 * i) 4, byteAt bs (16 * i + 4), byteAt bs (16 * i + 5), byteAt bs (16 * i + 6), byteAt bs (16 * i + 7),
    leAt bs (16 * i + 8) 8⟩
/-- The sections of an image lie in order, each aligned to 64 bytes (R388). -/
def inOrder : Nat → List (Nat × Nat) → Bool
  | _, [] => true
  | at', (o, n) :: r => decide (at' ≤ o) && o % 64 == 0 && inOrder (o + n) r
/-- The checks of R388 over a header; the map's length follows from the text's. -/
def headerOk (h : List Byte) : Bool :=
  let w (o : Nat) : Nat := leAt h o 4
  let rows := byteAt h 6
  w 0 == 0x53564B31 && leAt h 4 2 == 1 && decide (1 ≤ rows) && decide (rows ≤ 12) && decide (byteAt h 7 ≤ 1) &&
  w 8 % 1024 == 0 && w 12 % 1024 == 0 && w 16 % 1024 == 0 && w 20 % 4 == 0 && decide (w 20 < w 28) && w 28 % 4 == 0 &&
  decide (w 60 ≤ 1) && decide (w 40 ≤ w 8) && decide (w 48 ≤ w 12) &&
  inOrder (64 + 8 * rows) [(w 24, w 28), (w 32, (w 28 + 31) / 32), (w 36, w 40), (w 44, w 48), (w 52, 16 * w 56)]
/-- A bind entry names a target word within its section, by the header's lengths, and a kind that is not reserved. -/
def bindOk (h : List Byte) (b : Bind) : Bool :=
  let n := leAt h (match b.sect with | 0 => 28 | 1 => 40 | _ => 48) 4
  decide (1 ≤ b.kind) && decide (b.kind ≤ 7) && decide (b.sect ≤ 2) && decide (1 ≤ b.width) && decide (b.lo + b.width ≤ 32) &&
  decide (b.off + 4 ≤ n)
/-- What the first attempt reads of an image (R142): header, loop table and bind table, one after another, and the map's byte
with the entry's bit; an error is the reason that refuses the crew: a fault code, or 0xE2. -/
def State.readHead (s : State) (t : Option Nat) (a : Nat) : State × Except Nat (List Byte) :=
  match s.sysRead' t a 64 with
  | (s, .error e) => (s, .error e)
  | (s, .ok h) =>
    if !headerOk h then (s, .error 0xE2)
    else
      let w (o : Nat) : Nat := leAt h o 4
      let rows := byteAt h 6
      match s.sysRead' t (a + 64) (8 * rows) with
      | (s, .error e) => (s, .error e)
      | (s, .ok tb) =>
        if !rowsOk ((List.range rows).map (rowOf tb)) ((List.range rows).any (rowReserved tb)) then (s, .error 0xE2)
        else match s.sysRead' t (a + w 52) (16 * w 56) with
          | (s, .error e) => (s, .error e)
          | (s, .ok bb) =>
            match s.sysRead' t (a + w 32 + w 20 / 32) 1 with
            | (s, .error e) => (s, .error e)
            | (s, .ok m) =>
              let ok := hasBit (byteAt m 0) (w 20 / 4 % 8) && ((List.range (w 56)).map (bindOf bb)).all (bindOk h)
              (s, if ok then .ok (h ++ tb ++ bb) else .error 0xE2)
/-- An image by what the first attempt read; its sections are still to be read. -/
def imageOf (a : Nat) (x : List Byte) : Image :=
  let w (o : Nat) : Nat := leAt x o 4
  let rows := byteAt x 6
  { base := a, barrier := byteAt x 7 == 1, bound := w 60 == 1, sizes := [w 8, w 12, w 16], entry := w 20
    rows := (List.range rows).map (rowOf (x.drop 64))
    secs := [(w 24, w 28), (w 32, (w 28 + 31) / 32), (w 36, w 40), (w 44, w 48)]
    text := [], map := [], ab := [], wb := []
    binds := (List.range (w 56)).map (bindOf (x.drop (64 + 8 * rows))) }
/-- The image of a waiting candidate: its first attempt reads and checks it, later ones use what that read (R142). -/
def State.imageFor (s : State) (key : Nat) (t : Option Nat) (a : Nat) : State × Except Nat Image :=
  match s.pilot.images.find? (·.1 == key) with
  | some (_, x) => (s, .ok (imageOf a x))
  | none =>
    match s.readHead t a with
    | (s, .error e) => (s, .error e)
    | (s, .ok x) => (s.modPilot fun p => { p with images := Map.put p.images key x }, .ok (imageOf a x))
/-- The sections of an image, read as its crew is placed; an error is the fault code of a read. -/
def State.readSecs (s : State) (t : Option Nat) (a : Nat) : List (Nat × Nat) → State × Except Nat (List (List Byte))
  | [] => (s, .ok [])
  | (o, n) :: r =>
    match s.sysRead' t (a + o) n with
    | (s, .error e) => (s, .error e)
    | (s, .ok x) =>
      match s.readSecs t a r with
      | (s, .error e) => (s, .error e)
      | (s, .ok l) => (s, .ok (x :: l))
def State.readBody (s : State) (t : Option Nat) (im : Image) : State × Except Nat Image :=
  match s.readSecs t im.base im.secs with
  | (s, .error e) => (s, .error e)
  | (s, .ok l) => (s, .ok { im with text := l.getD 0 [], map := l.getD 1 [], ab := l.getD 2 [], wb := l.getD 3 [] })

/- Where a crew fits (R146, R189) -/
/-- Sizes of the typed buffers of a core (R190). -/
def bufSize (kind : Nat) : Nat := if kind = 0 then 0x80000 else if kind = 1 then 0xC0000 else 0x40000
/-- The lowest base for a window of one size on several cores that overlaps no other context's on any of them (R189,
R372). -/
def State.winBaseFor (s : State) (cores : List Nat) (kind size : Nat) : Option Nat :=
  let ws := (cores.flatMap fun c => (contextsOf c).map fun x => windowOf (s.ctx x) kind).filter fun w => winSize w != 0
  if size = 0 then some 0
  else
    let cands := (0 :: ws.map fun w => winBase w + winSize w).foldl (fun l x => insertNat x l) []
    cands.find? fun b => decide (b + size ≤ bufSize kind) &&
      ws.all fun w => decide (b + size ≤ winBase w) || decide (winBase w + winSize w ≤ b)
/-- The bases of an image's windows, the same on every core of a crew; none when some window does not fit so. -/
def State.crewBases (s : State) (im : Image) (cores : List Nat) : Option (List Nat) :=
  let l := (im.sizes.zipIdx).map fun (n, k) => s.winBaseFor cores k n
  if l.all (·.isSome) then some (l.filterMap id) else none
def State.freeContext (s : State) (core : Nat) : Option Nat := (contextsOf core).find? fun x => (s.ctx x).mode == .idle
/-- A core can take a member: a free context, windows that fit, not fenced, its cluster not forced off (R20, R95). -/
def State.coreFree (s : State) (im : Image) (core : Nat) : Bool :=
  (s.freeContext core).isSome && !s.fenced.contains core && s.gate (clusterOf core) != 2 && s.gate (clusterOf core) != 4 &&
  (s.crewBases im [core]).isSome
/-- The clusters chosen on a die from those it may use, in their order, by which cores are free (R146). -/
def chosenClusters (free : Nat → Bool) (mine : List Nat) (c : Nat) : Option (List Nat) :=
  let f := c / 4
  let r := c % 4
  let upTo (n x : Nat) : Bool := (List.range n).all fun k => free (4 * x + k)
  let first := (mine.filter (upTo 4)).take f
  if first.length < f then none
  else if r = 0 then some first
  else ((mine.filter fun x => !first.contains x).find? (upTo r)).map fun x => first ++ [x]
/-- The first D of some dies that can hold the crew, with their chosen clusters. -/
def fitDies (im : Image) (free : Nat → Bool) (dies : List (Nat × List Nat)) : Option (List (Nat × List Nat)) :=
  let l := (dies.filterMap fun (d, mine) => (chosenClusters free mine im.c).map fun cs => (d, cs)).take im.d
  if l.length < im.d then none else some l
/-- Dies with the clusters that a crew may use on them, in ascending order. -/
def diesWith (has : Nat → Bool) (dies : List Nat) : List (Nat × List Nat) := dies.map fun d => (d, (clustersOf d).filter has)
/-- The order in which the policy takes things: as they stand under the standard policy; one of a free choice under another
(R125). -/
def State.shuffle {α : Type} (s : State) (l : List α) : State × List α :=
  if Config.standardPolicy s.fwHeader then (s, l)
  else l.foldl (fun (x : State × List α) a =>
    ({ x.1 with fresh := x.1.fresh + 1 }, x.2.insertIdx (Config.policy x.1.fresh % (x.2.length + 1)) a)) (s, [])
/-- The dies and their clusters in the order in which a crew is tried on them. -/
def State.tryOn (s : State) (l : List (Nat × List Nat)) : State × List (Nat × List Nat) :=
  let x := l.foldl (fun (x : State × List (Nat × List Nat)) e =>
    let y := x.1.shuffle e.2
    (y.1, x.2 ++ [(e.1, y.2)])) (s, [])
  x.1.shuffle x.2
/-- Route tags bound on a die (R39, R41): a saved crew holds none. -/
def State.tagsOn (s : State) (d : Nat) : List Nat :=
  (s.pilot.crews.filter fun e => e.2.mode != .saved && e.2.ending.isNone && e.2.members.any fun x => dieOf x == d).filterMap
    fun e => e.2.tag
/-- The tag that is bound: the lowest number free on all the crew's dies (R39 asks for one; see the log). -/
def State.freeTag (s : State) (dies : List Nat) : Option Nat :=
  (List.range 8).find? fun g => dies.all fun d => !(s.tagsOn d).contains g
/-- A crew could never be placed on a set of clusters (R142). -/
def State.neverFits (s : State) (im : Image) (has : Nat → Bool) : Bool :=
  (im.sizes.zipIdx).any (fun (n, k) => decide (bufSize k < n)) || (fitDies im (fun _ => true) (diesWith has s.liveDies)).isNone

/- Placement (R110, R146, R177, R389) -/
/-- The resolved value of a bind entry in one die's copy; none when the value names nothing of the crew. -/
def resolve (chosen : List (Nat × List Nat)) (d : Nat) (bases : List Nat) (tag : Option Nat) (b : Bind) : Option Nat :=
  let cs := ((chosen.find? (·.1 == d)).map (·.2)).getD []
  match b.kind with
  | 1 => (cs[b.val / 4]?).map fun c => 4 * c + b.val % 4
  | 2 => cs[b.val]?
  | 3 => if b.val % 256 ≤ 2 then some (bases.getD (b.val % 256) 0 + b.val / 256) else none
  | 4 => (chosen[b.val]?).map (·.1)
  | 5 => some (tag.getD 0)
  | 6 => some (Config.rload (b.val / 4 % 4) (b.val % 4))
  | _ => some (Config.xlat (b.val / 4 % 4) (b.val % 4))
/-- A field of a 32-bit word within a section is rewritten. -/
def patch (bs : List Byte) (b : Bind) (v : Nat) : List Byte :=
  let w := leAt bs b.off 4
  let m := 2 ^ b.width
  let w' := w - w / 2 ^ b.lo % m * 2 ^ b.lo + v * 2 ^ b.lo
  (leBytes 4 w').zipIdx.foldl (fun bs (x, i) => bs.set (b.off + i) x) bs
/-- Every entry of a copy that is still to be resolved; none when a value does not fit its width. -/
def bindAll (im : Image) (val : Bind → Option Nat) : Option Image :=
  (im.binds.filter fun b => !(im.bound && decide (6 ≤ b.kind))).foldl (fun o b => o.bind fun i => (val b).bind fun v =>
    if 2 ^ b.width ≤ v then none
    else match b.sect with
      | 0 => some { i with text := patch i.text b v }
      | 1 => some { i with ab := patch i.ab b v }
      | _ => some { i with wb := patch i.wb b v }) (some im)
def winWord (base size : Nat) : Word := BitVec.ofNat 64 (size * 2 ^ 32 + base)

/-- What a new crew is placed for. -/
structure Order where
  tenant : Option Nat
  part   : Option Nat
  launch : Option Nat
  plan   : Option (Nat × Nat)
  prio   : Nat
  restart : Bool
  args   : Word
  entry  : Word
  done   : Word
  deriving DecidableEq, Repr
/-- One member: its context as R177 gives it, its windows with their data, and its core cache invalidated (R254). -/
def State.placeMember (s : State) (id : Nat) (o : Order) (im : Image) (bases : List Nat) (i j cx : Nat) : State :=
  let core := coreOf cx
  let base (k : Nat) : Nat := bases.getD k 0
  let win (k : Nat) : Word := winWord (base k) (im.sizes.getD k 0)
  let n := j * im.c + i
  let regs : Map Word := [1, 2, 3, 4, 5, 6].foldl (fun m r => Map.set 0 m r (match r with
    | 1 => BitVec.ofNat 64 n
    | 2 => BitVec.ofNat 64 (im.c * im.d)
    | 3 => BitVec.ofNat 64 (im.indices i j)
    | 4 => o.args
    | 5 => o.entry
    | _ => BitVec.ofNat 64 (base 0))) []
  let c : Ctx := { Ctx.start with
    mode := .ready, since := s.g, sregs := regs
    lc := (im.lcs.zipIdx).foldl (fun m e => Map.set 0 m e.2 (BitVec.ofNat 64 e.1)) []
    pc := BitVec.ofNat 64 im.entry
    sys := o.tenant.isNone, winAb := win 0, winWb := win 1, winCb := win 2, crew := some id, member := n, stepEntry := o.entry }
  let s := [0, 1, 2].foldl (fun s k => s.zeroRange (bufKey core k (base k)) (im.sizes.getD k 0)) s
  (((s.putBytes (bufKey core 0 (base 0)) im.ab).putBytes (bufKey core 1 (base 1)) im.wb).setCtx cx c).dropCache core
/-- The core of a crew's member on a die, and all its cores. -/
def coreAt (chosen : List (Nat × List Nat)) (d i : Nat) : Nat :=
  4 * ((((chosen.find? (·.1 == d)).map (·.2)).getD []).getD (i / 4) 0) + i % 4
def coresAt (chosen : List (Nat × List Nat)) (c : Nat) : List Nat :=
  chosen.flatMap fun e => (List.range c).map (coreAt chosen e.1)
/-- A placement of a crew: its dies with their clusters, and its tag; none while it waits. -/
def State.findPlace (s : State) (im : Image) (has : Nat → Bool) : State × Option (List (Nat × List Nat) × Option Nat) :=
  let x := s.tryOn (diesWith has s.placeDies)
  let s := x.1
  (s, (fitDies im (s.coreFree im) x.2).bind fun l =>
    if (s.crewBases im (coresAt l im.c)).isNone then none
    else if im.barrier then (s.freeTag (l.map (·.1))).map fun g => (l, some g) else some (l, none))
/-- The crew is placed as a gang, its text copied and bound for each die; none when a bind value does not fit (0xE2). -/
def State.placeCrew (s : State) (o : Order) (im : Image) (chosen : List (Nat × List Nat)) (tag : Option Nat) : Option State :=
  let id := s.pilot.nextCrew
  let dies := chosen.map (·.1)
  let bases := (s.crewBases im (coresAt chosen im.c)).getD []
  let copies := dies.map fun d => (bindAll im (resolve chosen d bases tag)).map fun x => (d, x)
  if copies.any (·.isNone) then none
  else
    let copies := copies.filterMap fun x => x
    let places := (dies.zipIdx).flatMap fun (d, j) => (List.range im.c).map fun i => (d, i, j, coreAt chosen d i)
    let cxs := places.map fun (_, _, _, core) => (s.freeContext core).getD (4 * core)
    let cr : Crew :=
      { tenant := o.tenant, part := o.part, launch := o.launch, plan := o.plan, prio := o.prio, restart := o.restart, c := im.c, d := im.d,
        members := cxs, retired := [], image := BitVec.ofNat 64 im.base,
        textLen := im.text.length, ending := none, mode := .running, tag := tag, phase := 0, arrivals := [], release := none,
        owes := [], savedCx := [], savedQ := [], resumed := [], frames := [], missed := false, drainBy := 0, done := o.done }
    let s := copies.foldl (fun s (d, x) =>
      (s.putBytes (textKey id d 0) x.text).putBytes (mapKey id d 0) im.map) s
    let s := (places.zip cxs).foldl (fun s e =>
      let (d, i, j, _) := e.1
      let x := ((copies.find? (·.1 == d)).map (·.2)).getD im
      s.placeMember id o x bases i j e.2) s
    some ((s.modPilot fun p => { p with nextCrew := id + 1 }).setCrew id cr)

/- Slices begin (R112, R113) -/
/-- The first cycle of G at which global time has reached ns (R27). -/
def cycleOf (ns : Nat) : Nat := (ns * 18 + 4) / 5
/-- Placement or restore of a crew of the tenant that holds the slice: a switch ends, and a slice not begun begins. -/
def State.began (s : State) (p t : Nat) : State :=
  let r := s.part p
  let s := if r.stage = 3 then
      ((s.setRegBits (rPartStat p) 6 0 (64 + t)).setRegBit (rPartStat p) 32 false).setPart p { r with stage := 0, outgoing := none, incoming := none }
    else s
  let r := s.part p
  if r.ends.isSome then s
  else
    let e := s.timeNs + 1000 * s.regBits (rPartCtl p) 31 16
    (s.setPart p { r with ends := some e }).at' (cycleOf e) (.sliceEnd p)

/- Residency gates (R147) -/
/-- The frames of a residency set; an error is the fault code of a read of the explicit list. -/
def State.residency (s : State) (t resset resn : Nat) : State × Except Nat (List Nat) :=
  if resset = 0 then
    (s, .ok ((s.tier.frames.filter fun e => e.2.owned && e.2.owner == t && e.2.recd).map (·.1)))
  else if resset % 8 ≠ 0 then (s, .error 0x05)
  else match s.sysRead' (some t) resset (8 * resn) with
    | (s, .error e) => (s, .error e)
    | (s, .ok bs) =>
      let (s, l) := (List.range resn).foldl (fun (s, l) i =>
        match s.askIommu .pilot (some t) (leAt bs (8 * i) 8) .r with
        | (s, some p) =>
          (s, match s.classify p with
            | .frame f _ => if (s.frame f).owned && (s.frame f).owner == t then insertNat f l else l
            | _ => l)
        | (s, none) => (s, l)) (s, [])
      (s, .ok l)
/-- A test of a gate: passed, passed because its wait has expired, failed, or an unreadable list. -/
inductive Gate where
  | pass
  | forced
  | fail
  | error (e : Nat)
  deriving DecidableEq, Repr
def State.gateTest (s : State) (p key t resset resn : Nat) : State × Gate :=
  match s.residency t resset resn with
  | (s, .error e) => (s, .error e)
  | (s, .ok fs) =>
    let res := (fs.filter fun f => (s.frame f).state == .resident).length
    if s.regBits (rTenSched t) 39 32 * fs.length ≤ 100 * res then (s, .pass)
    else
      let s := (fs.filter fun f => (s.frame f).state == .absent).foldl (fun s f => s.fetchFor f (some t)) s
      let wait := 1000 * s.regBits rPilotCtl 47 32
      match s.pilot.gates.find? (·.1 == key) with
      | some (_, t0) => (s, if t0 + wait ≤ s.timeNs then .forced else .fail)
      | none =>
        let s := s.modPilot fun x => { x with gates := Map.put x.gates key s.timeNs }
        (s.at' (cycleOf (s.timeNs + wait)) (.gateWaitExpiry p), .fail)
/-- A candidate is placed: its gate is closed, and counted when its wait had expired. -/
def State.gateDone (s : State) (key : Nat) (g : Gate) : State :=
  let s := s.dropTry key
  if g = .forced then s.bump rPilotStat 63 32 else s

/- Restore of a saved crew (R41, R111, R116) -/
/-- Saved window bytes of a member (see the log). -/
def saveKey (crew cx kind : Nat) : Nat := 2 ^ 210 + ((crew * 2048 + cx) * 4 + kind) * 2 ^ 20
def winBytes (c : Ctx) : Nat := winSize c.winAb + winSize c.winWb + winSize c.winCb
/-- Bytes and frames of a member's run in the save area (R118). -/
def runBytes (c : Ctx) : Nat := 67584 + winBytes c
def runFrames (c : Ctx) : Nat := (runBytes c + 65535) / 65536
/-- A saved context and its windows are free again where they were. -/
def State.placeFree (s : State) (e : Nat × Ctx) : Bool :=
  (s.ctx e.1).mode == .idle &&
  [0, 1, 2].all fun k =>
    let w := windowOf e.2 k
    winSize w == 0 || (contextsOf (coreOf e.1)).all fun x =>
      let v := windowOf (s.ctx x) k
      x == e.1 || winSize v == 0 || decide (winBase w + winSize w ≤ winBase v) || decide (winBase v + winSize v ≤ winBase w)
def State.restoreMember (s : State) (id : Nat) (e : Nat × Ctx) : State :=
  let (cx, c) := e
  let s := [0, 1, 2].foldl (fun s k =>
    let w := windowOf c k
    s.copyRange (saveKey id cx k) (bufKey (coreOf cx) k (winBase w)) (winSize w)) s
  let s := [0, 1, 2].foldl (fun s k => s.zeroRange (saveKey id cx k) (2 ^ 20)) s
  s.setCtx cx (if c.blockOn = some .retiring then { c with ev10 := false, halted := false }
    else { c with mode := .ready, since := s.g, yielded := 0, blockOn := none, parkOn := none, wcount := 0, ev10 := false,
                  halted := false })
def State.restoreCrew (s : State) (id : Nat) (cr : Crew) : State :=
  let s := cr.savedCx.foldl (fun s e => s.restoreMember id e) s
  let s := cr.savedQ.foldl (fun s e => s.modCore (coreOf e.cx) fun k => { k with queue := k.queue ++ [e] }) s
  let s := cr.savedQ.foldl (fun s e => match e.cmd with
    | .fsig .. => s.later (.fsigToken (coreOf e.cx) e.id)
    | .mig _ _ dl => (s.later (.landingArrival (coreOf e.cx) e.id)).seeFrames e.id e.cx dl
    | _ => s.later (.landingArrival (coreOf e.cx) e.id)) s
  let s := match cr.tenant with
    | some t => cr.savedCx.foldl (fun (s : State) (e : Nat × Ctx) => s.chargeBytes t 1 (runBytes e.2)) s
    | none => s
  let all := cr.arrivals.length == cr.c * cr.d
  s.setCrew id { cr with mode := .running, savedCx := [], savedQ := [], frames := [], missed := false,
                         resumed := if all then (cr.savedCx.filter (fun e => e.2.blockOn != some .retiring)).map (fun e => e.1) else [] }

end Sys2Proof.Machine
end

