-- ==== Sys2Proof/Machine/Walk.lean ====
section
/-! DEFINITION. The end steps of hardware loops (R288), and the estimates of a slice end: the walk of a member's text, the
outstanding engine bytes, and the time of a save (R114). -/

namespace Sys2Proof.Machine

/- Loop ends (R288, R289) -/
/-- Loop state before and after the end steps of a group: levels, counters, EC, the rotation, and the level whose back
edge is taken. -/
structure LoopEnd where
  loops : Map Level
  lc    : Map Word
  ec    : Word
  rot   : Option Bool
  back  : Option Level
  deriving DecidableEq, Repr
def LoopEnd.of (c : Ctx) : LoopEnd := ⟨c.loops, c.lc, c.ec, none, none⟩
/-- The levels that end in a group, in ascending number, each stepped until one loops back. -/
def LoopEnd.steps (group : Word) : List Nat → LoopEnd → LoopEnd
  | [], e => e
  | n :: ns, e =>
    let l := Map.get Level.off e.loops n
    if !l.active || l.stop != group then LoopEnd.steps group ns e
    else
      let c := Map.get 0 e.lc n
      let off : LoopEnd := { e with loops := Map.set .off e.loops n { l with active := false } }
      if l.piped then
        let c' := if c = 0 then c else c - 1
        let lc := Map.set 0 e.lc n c'
        if c' ≠ 0 then { e with lc := lc, rot := some true, back := some l }
        else if e.ec ≠ 0 then { e with lc := lc, ec := e.ec - 1, rot := some false, back := some l }
        else LoopEnd.steps group ns { off with lc := lc }
      else
        let lc := Map.set 0 e.lc n (c - 1)
        if c - 1 ≠ 0 then { e with lc := lc, back := some l }
        else LoopEnd.steps group ns { off with lc := lc }
def LoopEnd.at (group : Word) (e : LoopEnd) : LoopEnd := LoopEnd.steps group (List.range 6) { e with rot := none, back := none }

/- The walk (R114) -/
/-- A walk: where it stands, its ticks, its loops, the registers its groups write, and those that none may write. -/
structure Walk where
  pc      : Word
  ticks   : Nat
  loops   : LoopEnd
  written : List Nat
  needs   : List Nat
  deriving DecidableEq, Repr
/-- What one op does to the walk: the path goes on, jumps, ends at `retire`, or cannot be told. -/
inductive Path where
  | on
  | goto (t : Word)
  | ends
  | unknown
  deriving DecidableEq, Repr
def pathMax (a b : Path) : Path :=
  match a, b with
  | .unknown, _ | _, .unknown => .unknown
  | .ends, _ | _, .ends => .ends
  | .goto t, _ => .goto t
  | _, b => b
/-- A loop's set-up in the walk: the level runs from the next group, or the body is skipped. -/
def State.walkLoop (s : State) (cx : Nat) (c : Ctx) (next : Word) (lv cr len : Nat) (stages : Option Nat) (w : Walk) : Walk × Path :=
  let count := if cr = 0 then c.lcr lv else c.s cr
  match s.groupFrom cx next (len - 1) with
  | none => (w, .unknown)
  | some stop =>
    let w := { w with needs := cr :: w.needs }
    if count = 0 then (w, .goto ((s.groupFrom cx next len).getD (s.textEnd cx)))
    else
      let l : Level := ⟨next, stop, stages.isSome, decide (64 < len), true⟩
      ({ w with loops := { w.loops with
          loops := Map.set .off w.loops.loops lv l
          lc := Map.set 0 w.loops.lc lv count
          ec := match stages with | some k => BitVec.ofNat 64 (k - 1) | none => w.loops.ec } }, .on)
/-- One op of the walk. -/
def State.walkOp (s : State) (cx : Nat) (c : Ctx) (bundle next : Word) (w : Walk) (i : Instr) : Walk × Path :=
  let live := c.p (guardOf i).toNat
  match i with
  | .br g off => (w, if g = 0 then .goto (bundle + off.signExtend 64 * 4) else .unknown)
  | .jmp .. | .call .. | .ret .. | .brstage .. => (w, .unknown)
  | .loop _ lv cr len => if live then s.walkLoop cx c next lv.toNat cr.toNat len.toNat none w else (w, .on)
  | .loopp _ lv cr len st => if live then s.walkLoop cx c next lv.toNat cr.toNat len.toNat (some st.toNat) w else (w, .on)
  | .wait _ j ph =>
    (w, if !live || landingFree (s.landing (coreOf cx) (c.s j.toNat).toNat) (ph == 1) then .on else .unknown)
  | .tbw _ tag => (w, if !live || !s.barrierHeld cx tag.toNat then .on else .unknown)
  | .retire _ => (w, if live then .ends else .on)
  | .tret _ => (w, if live then .goto c.epc else .on)
  | .trap g _ => if live then (w, .unknown) else ({ w with needs := rP g :: w.needs }, .on)
  | _ => (w, .on)
/-- Idle ticks of the bodies over 64 groups whose iteration a group ends: every one its end steps step, the last iteration
too (R114). -/
def LoopEnd.longTicks (group : Word) (e0 e : LoopEnd) : Nat :=
  3 * ((List.range 6).countP fun n =>
    let l := Map.get Level.off e0.loops n
    l.active && l.stop == group && l.long && (!(Map.get Level.off e.loops n).active || e.back == some l))
/-- What the issued part of a group that stopped part way has settled of its end (R200). -/
def Ctx.restPath (c : Ctx) : Path :=
  match c.rest with
  | none => .on
  | some r =>
    if r.leave = some .retire then .ends
    else if r.tret then .goto c.epc
    else match r.transfer with
      | some t => .goto t
      | none => .on
/-- One group: its ops, its end steps, its ticks; the ticks of the whole walk once it ends. Of a group that stopped part way the
walk takes the bundles that have not issued. -/
def State.walkGroup (s : State) (cx : Nat) (c : Ctx) (w : Walk) : Option (Walk × Bool) :=
  let (from', path0) := if w.ticks = 0 && c.rest.isSome then (c.pc.toNat, c.restPath) else (w.pc.toNat, Path.on)
  let g := parseGroup (s.textWord cx) s.fwHeader c.f from' 13 w.pc.toNat 0 []
  if g.bad.isSome then none
  else
    let next := BitVec.ofNat 64 ((g.bundles.getLast?.map fun b => b.addr + b.len).getD 0)
    let ops := (g.bundles.filter fun b => decide (from' ≤ b.addr)).flatMap fun b => b.ops.map fun o => (BitVec.ofNat 64 b.addr, o.2)
    let (w1, path) := ops.foldl (fun (x : Walk × Path) o =>
      let (w', p) := s.walkOp cx c o.1 next x.1 o.2
      (w', pathMax x.2 p)) (w, path0)
    let wr := ops.flatMap fun o => (regWrites o.2).filter fun r => !(decide (120 ≤ r) && decide (r ≤ 126))
    let w1 := { w1 with ticks := w1.ticks + 1, written := (w1.written ++ wr).eraseDups }
    match path with
    | .unknown => none
    | .ends => some (w1, true)
    | .goto t => some ({ w1 with pc := t, ticks := w1.ticks + 3 }, false)
    | .on =>
      let e := w1.loops.at w.pc
      let turned := if e.rot.isSome then rWindow else []
      let w1 := { w1 with
        loops := e
        ticks := w1.ticks + LoopEnd.longTicks w.pc w1.loops e
        written := (w1.written ++ turned).eraseDups }
      match e.back with
      | some l => some ({ w1 with pc := l.start }, false)
      | none => some ({ w1 with pc := next }, false)
def State.walkGo (s : State) (cx : Nat) (c : Ctx) : Nat → Walk → Option Nat
  | 0, _ => none
  | fuel + 1, w =>
    match s.walkGroup cx c w with
    | none => none
    | some (w, true) => if w.needs.any w.written.contains then none else some w.ticks
    | some (w, false) => s.walkGo cx c fuel w
/-- A write that a member issued and that has not landed counts as landed, with the value it will write: a held load or atomic
with what it reads as things stand, a balance read likewise (R114). -/
def State.willWrite (s : State) (cx : Nat) (a : Act) : Act :=
  match a with
  | .load id d =>
    match (s.core (coreOf cx)).held.find? (·.id == id) with
    | none => a
    | some h => match (s.performOp (s.replaced h)).2 with
      | .value v => .sreg d v
      | _ => a
  | .acct d _ => match s.tenantOf cx with
    | some t => .sreg d (s.reg (rAcctBal t))
    | none => a
  | a => a
/-- r(m): the ticks a member still runs; none is infinite. One that drains after its `retire` runs no group any more; one that is
BLOCKED or PARKED, be it that it waits to retire, is infinite (R114, R299). -/
def State.remaining (s : State) (cx : Nat) : Option Nat :=
  let c0 := s.ctx cx
  if c0.mode = .parked || c0.mode = .blocked then none
  else if c0.leaving = some .retire then some 0
  else
    let writes := (c0.pend.map fun p => { p with act := s.willWrite cx p.act }).filter (!·.act.captures)
    let s' := writes.foldl (fun s p => s.landAct cx p) (s.modCtx cx fun c => { c with pend := [] })
    let c := s'.ctx cx
    s'.walkGo cx c (2 ^ 24) ⟨(c.rest.map (·.group)).getD c.pc, 0, LoopEnd.of c, [], []⟩

/-- Bytes that a queued or running command has still to deliver, store or see counted: what it has sent and memory has not
yet performed counts, and a command that an error stopped sends no more (R114, R368). -/
def State.entryBytes (s : State) (core : Nat) (e : Entry) : Nat :=
  match e.cmd with
  | .bulk op es _ _ _ _ _ _ dims x =>
    if op = 1 then
      let addr := elemAddr dims x
      let unsent := ((List.range (e.cmd.total - e.done)).map (e.done + ·)).countP fun j =>
        (List.range e.done).all fun k => addr k / 64 != addr j / 64
      (if e.stopped then 0 else unsent * 2 ^ es) +
        ((s.posted.filter (·.entry == some (core, e.id))).map (·.units)).sum
    else if e.stopped then 0 else (e.cmd.total - e.done) * 2 ^ es + e.carry.length
  | .coll _ _ _ n et .. => if e.done < 2 then n * collElem et else 0
  | .mig .. =>
    ((if e.stopped then 0 else e.cmd.total - e.done) +
      (s.tier.migs.filter fun m => m.core == core && m.cmd == e.id).length) * 65536
  | _ => 0
/-- Outstanding engine bytes of a core. -/
def State.engineBytes (s : State) (core : Nat) : Nat := ((s.core core).queue.map (s.entryBytes core)).sum
/-- Occupied contexts of a cluster. -/
def State.occupants (s : State) (c : Nat) : List Nat :=
  ((List.range 16).map (16 * c + ·)).filter fun x => (s.ctx x).mode != .idle
/-- est_drain(c) ≤ the deadline in µs. -/
def State.drainFits (s : State) (c us : Nat) : Bool :=
  let rs := (s.occupants c).map s.remaining
  if rs.any (·.isNone) then false
  else
    let r := (rs.map fun x => x.getD 0).foldl Nat.max 0
    let b := ((List.range 4).map fun k => s.engineBytes (4 * c + k)).foldl Nat.max 0
    let f := s.clk c
    decide (r * 160 * 4608 + b * 90 * f ≤ 1000 * us * 9 * f * 4608)
/-- est_save(c) ≤ the deadline in µs. -/
def State.saveFits (s : State) (c us : Nat) : Bool :=
  decide (((s.occupants c).map fun x => runBytes (s.ctx x)).sum * 10 ≤ 1000 * us * 9216)

end Sys2Proof.Machine
end

