-- ==== Sys2Proof/Machine/Switch.lean ====
section
/-! DEFINITION. Waiting work and the choice of a tenant (R144, R145), slice ends, saves and tenant switches (R112 to R118,
R141, R167), and the partition block (R107 to R109, R119, R121). -/

namespace Sys2Proof.Machine

/- Waiting work (R144) -/
/-- A piece of waiting work: its priority; 0 a saved crew, 1 a kernel offered, 2 a launch, 3 a boundary that would act; and
the crew, plan or record. -/
structure Item where
  prio : Nat
  cls  : Nat
  n    : Nat
  deriving DecidableEq, Repr
/-- The order in which waiting work is tried (R146); among saved crews of one priority by ascending crew number (see the log). -/
def Item.before (a b : Item) : Bool :=
  decide (b.prio < a.prio) || (a.prio == b.prio && (decide (a.cls < b.cls) || (a.cls == b.cls && decide (a.n < b.n))))
def insertItem (x : Item) : List Item → List Item
  | [] => [x]
  | y :: r => if x.before y then x :: y :: r else y :: insertItem x r
/-- Whether a plan's next boundary would admit a record, return frames or launch a kernel. -/
def State.wouldAdmit (s : State) (n p : Nat) : List Nat → Bool
  | [] => false
  | i :: r =>
    if s.seqNum i 9 1 ≠ n then s.wouldAdmit n p r
    else match s.admitTest n p i with
      | .pass _ => true
      | .fail _ => s.wouldAdmit n p r
      | .stop => false
def State.boundaryActs (s : State) (n : Nat) : Bool :=
  let p := s.tenantPart (s.planTenant n)
  !(s.planHeld n).isEmpty || s.wouldAdmit n p (s.seqsIn p seqPENDING)
def State.savedOf (s : State) (t : Nat) : List (Nat × Crew) :=
  s.pilot.crews.filter fun e => e.2.tenant == some t && e.2.mode == .saved && e.2.ending.isNone
def State.waiting (s : State) (t : Nat) : List Item :=
  let saved : List Item := (s.savedOf t).map fun e => ⟨e.2.prio, 0, e.1⟩
  let plans : List Item := if !s.committed then [] else (s.planTenants t).filterMap fun n =>
    match s.stepRun n with
    | some r =>
      if !r.isOver (s.planKernels n) && !r.placed then some ⟨s.planPrio n, 1, n⟩
      else if s.boundaryActs n then some ⟨s.planPrio n, 3, n⟩ else none
    | none => if s.boundaryActs n then some ⟨s.planPrio n, 3, n⟩ else none
  let ls : List Item := if !s.committed then [] else (s.launches t launchREADY).map fun i => ⟨s.launchNum t i 24 1 % 8, 2, i⟩
  (saved ++ plans ++ ls).foldl (fun l x => insertItem x l) []

/- The choice (R144, R145) -/
def State.deficit (s : State) (t : Nat) : Int := (s.reg (rTenDef t)).toInt
/-- The deficits' update of a slice end. -/
def State.updateDeficits (s : State) (p : Nat) (cands : List Nat) : State :=
  (s.partTenants p).foldl (fun s t =>
    if cands.contains t then
      let q : Int := s.regBits (rTenSched t) 31 0
      let d := s.deficit t + q
      s.setReg (rTenDef t) (sat64 (if 2 * q < d then 2 * q else d))
    else s.setReg (rTenDef t) 0) s
/-- Tenant numbers after one, wrapping. -/
def tenantsFrom (out : Option Nat) : List Nat :=
  match out with
  | none => List.range 64
  | some o => (List.range 64).map fun i => (o + 1 + i) % 64
/-- The next tenant of a partition among those with waiting work, none when none has any: R144's under the standard policy,
any of them under another (R125). -/
def State.chooseTenant (s : State) (p : Nat) (out : Option Nat) : State × Option Nat :=
  let cands := (s.partTenants p).filter fun t => !(s.waiting t).isEmpty
  if cands.isEmpty then (s, none)
  else
    let s := s.updateDeficits p cands
    if !Config.standardPolicy s.fwHeader then
      let x := s.shuffle cands
      (x.1, x.2.head?)
    else
    let level (t : Nat) : Nat := ((s.waiting t).map (·.prio)).foldl Nat.max 0
    let top := (cands.map level).foldl Nat.max 0
    let order := (tenantsFrom out).filter fun t => cands.contains t && level t == top
    (s, order.foldl (fun best t => match best with
      | none => some t
      | some b => if s.deficit b < s.deficit t then some t else some b) none)

/- Saving (R116, R118) -/
/-- The save area's frames that no crew of the tenant uses, saved or being saved; frame 0 holds the switch record. -/
def State.saveFree (s : State) (t : Nat) : List Nat :=
  let n := s.regBits (rSaveFrames t) 31 0
  let used := (s.pilot.crews.filter fun e => e.2.tenant == some t && e.2.ending.isNone).flatMap fun e => e.2.frames
  let most := (s.pilot.crews.map fun e => 512 * e.2.members.length).sum + used.length + 2
  ((List.range (Nat.min n most)).drop 1).filter fun i => !used.contains i
/-- Live members of a crew. -/
def State.live (s : State) (id : Nat) (cr : Crew) : List Nat :=
  cr.members.filter fun x => (s.ctx x).crew == some id && (s.ctx x).mode != .idle
def State.runsOf' (s : State) (id : Nat) (cr : Crew) : Nat := ((s.live id cr).map fun x => runFrames (s.ctx x)).sum
/-- The frames that a save of the crew may take: those allotted to it already, then the free ones. -/
def State.saveFrames (s : State) (cr : Crew) : List Nat :=
  match cr.tenant with
  | none => []
  | some t => cr.frames ++ s.saveFree t
def State.canSave (s : State) (id : Nat) (cr : Crew) : Bool :=
  cr.tenant.isSome && decide (s.runsOf' id cr ≤ (s.saveFrames cr).length)
/-- MISS counts a crew at most once at a slice end. -/
def State.miss (s : State) (id : Nat) (cr : Crew) : State :=
  match cr.part with
  | none => s
  | some p => if cr.missed then s else (s.bump (rPartPre p) 63 48).setCrew id { cr with missed := true }
/-- A save is requested: its runs are allotted, and every member stops at a group boundary (R116, R118). -/
def State.requestSave (s : State) (id : Nat) (cr : Crew) : State :=
  let s := s.setCrew id { cr with mode := .saving, frames := (s.saveFrames cr).take (s.runsOf' id cr) }
  ((s.live id cr).foldl (fun s x => s.modCtx x fun c => { c with ev10 := true }) s).later (.crewSaveDone id)
/-- A pre-emption counter of the crew's partition counts it: 0 DRAIN, 1 SAVE, 2 DISCARD (R107, R115). -/
def State.countCrew (s : State) (cr : Crew) (k : Nat) : State :=
  match cr.part with
  | none => s
  | some p => s.bump (rPartPre p) (16 * k + 15) (16 * k)
/-- A crew that cannot be saved: discarded if restartable, else ended with 0xE7 (R118). -/
def State.cannotSave (s : State) (id : Nat) (cr : Crew) : State :=
  if cr.restart then (s.discardCrew id).countCrew cr 2 else (s.miss id cr).failCrew id 0xE7 0xFFFF
/-- The frame of an area that a tenant's frame number names; none when it is no frame of the tenant. -/
def State.areaFrame (s : State) (t i : Nat) (perm : Perm) : State × Option Nat :=
  match s.askIommu .pilot (some t) ((s.reg (rSaveBase t)).toNat + 65536 * i) perm with
  | (s, none) => (s, none)
  | (s, some a) =>
    match s.classify a with
    | .frame f _ => (s, if (s.frame f).owned && (s.frame f).owner == t then some f else none)
    | _ => (s, none)
/-- A frame of the area takes the bytes of a run, whose layout is the device's own: free values. One that still stands in SCRUB
is waited for (R123). -/
def State.scribble (s : State) (f : Nat) : State :=
  let s := s.bringIn f
  match (s.frame f).state with
  | .resident =>
    let s := s.dropGrans fun _ x => x.frame == f
    let bs := (List.range 65536).map fun i => Config.freeByte (s.fresh + i)
    let s := { s with fresh := s.fresh + 65536 }.putBytes (hbmKey (s.frame f).hbm 0) bs
    (s.cleanHbm (s.frame f).hbm).setFrame f { s.frame f with dirty := true }
  | .scrub => s.want .room
  | _ => s
/-- The frames of a restore are read as the system, fetched where they are not resident; false when one is RETIRED or none
of the tenant's (R118; see the log). -/
def State.readArea (s : State) (t : Nat) : List Nat → State × Bool
  | [] => (s, true)
  | i :: r =>
    match s.areaFrame t i .r with
    | (s, none) => (s, false)
    | (s, some f) =>
      let s := s.bringIn f
      if (s.frame f).state = .retired then (s, false) else s.readArea t r
/-- The frames of a save are written; false when one is RETIRED or none of the tenant's. -/
def State.writeArea (s : State) (t : Nat) : List Nat → State × Bool
  | [] => (s, true)
  | i :: r =>
    match s.areaFrame t i .w with
    | (s, none) => (s, false)
    | (s, some f) => if (s.frame f).state = .retired then (s, false) else (s.scribble f).writeArea t r
/-- A member stands where a save may take it (R116, R202, R208, R209): at the boundary at which it took event 0x10, or
blocked or parked outside a handler, with its results latched; a member that retires has no group left. -/
def Ctx.saveable (c : Ctx) : Bool :=
  match c.mode with
  | .idle => true
  | .ready => c.halted
  | .blocked => c.blockOn == some .retiring || (!c.inh && c.quiet)
  | .parked => !c.inh
  | .holding => false
/-- A command is recorded as queued: it has not started, or it is a contribution whose collective waits for members that
have not issued theirs (R369; see the log). -/
def State.recordable (s : State) (e : Entry) : Bool :=
  !e.started ||
  (match e.cmd with
    | .coll _ _ _ _ _ _ _ _ grp _ seq =>
      e.done == 1 && (s.colls.find? fun c => c.crew == e.crew && c.group == grp && c.seq == seq).any fun c =>
        c.parts.length != ((s.crew? e.crew).map (·.size)).getD 1
    | _ => false)
/-- Every member has stopped, and its stores, its atomics and the commands it has started have performed (R116, R256,
R369). -/
def State.saveReady (s : State) (id : Nat) (cr : Crew) : Bool :=
  (s.live id cr).all fun x =>
    let k := s.core (coreOf x)
    (s.ctx x).saveable && !(s.posted.any fun p => p.cx == x) && !(k.held.any fun h => h.cx == x) &&
    (k.queue.filter fun e => e.cx == x).all s.recordable && !(s.tier.migs.any fun m => m.cx == x)
/-- A member's windows are written down, and its context is free; its commands, recorded, keep what they owe. -/
def State.saveMember (s : State) (id : Nat) (x : Nat) : State :=
  let c := s.ctx x
  let s := [0, 1, 2].foldl (fun s k =>
    let w := windowOf c k
    s.copyRange (bufKey (coreOf x) k (winBase w)) (saveKey id x k) (winSize w)) s
  { s.idleCtx x with owed := s.owed }
/-- The save of a crew is complete, or the area cannot take it; or it is to be asked again. -/
def State.saveCrew (s : State) (crew : Nat) : State :=
  match s.crew? crew with
  | none => s
  | some cr =>
    if cr.mode ≠ .saving || cr.ending.isSome || cr.isOver then s
    else if !s.saveReady crew cr then
      ((s.live crew cr).foldl (fun s x => s.askSystem x 6) s).later (.crewSaveDone crew)
    else if !s.canSave crew cr then s.cannotSave crew cr
    else
      let t := cr.tenant.getD 0
      let ms := s.live crew cr
      let frames := (s.saveFrames cr).take (s.runsOf' crew cr)
      match s.writeArea t frames with
      | (s, false) => s.failCrew crew 0xE7 0xFFFF
      | (s, true) =>
        let cxs := ms.map fun x => (x, s.ctx x)
        let q := ms.flatMap fun x => (s.core (coreOf x)).queue.filter fun e => e.cx == x
        let s := cxs.foldl (fun (s : State) (e : Nat × Ctx) => s.chargeBytes t 1 (runBytes e.2)) s
        let s := ms.foldl (fun s x => s.saveMember crew x) s
        s.setCrew crew { cr with mode := .saved, savedCx := cxs, savedQ := q, frames := frames, release := none }
/-- CREW_SAVE_DONE. -/
def execCrewSaveDone (crew : Nat) (s : State) : Res := .next (s.wholeEvent (.crewSaveDone crew) fun s => s.saveCrew crew)

/- Slice ends (R112, R114, R115) -/
/-- 0 drain, 1 save, 2 discard, 3 save with MISS. -/
def State.clusterChoice (s : State) (p c : Nat) : Nat :=
  let us := s.regBits (rPartCtl p) 15 0
  let crews := ((s.occupants c).filterMap fun x => (s.ctx x).crew).eraseDups
  let here := s.pilot.crews.filter fun e => crews.contains e.1
  if s.drainFits c us then 0
  else if s.saveFits c us && here.all fun e => s.canSave e.1 e.2 then 1
  else if here.all fun e => e.2.restart then 2
  else 3
def State.crewClusters (s : State) (id : Nat) (cr : Crew) : List Nat := ((s.live id cr).map fun x => x / 16).eraseDups
/-- When the pre-emption deadline of a partition elapses that begins now, in ns. -/
def State.drainEnd (s : State) (p : Nat) : Nat := s.timeNs + 1000 * s.regBits (rPartCtl p) 15 0
/-- A crew is pre-empted by the most severe choice of its clusters (R115); the counters count it once. -/
def State.preempt (s : State) (p : Nat) (choice : Nat → Nat) (id : Nat) (cr : Crew) : State :=
  let cs := (s.crewClusters id cr).map choice
  let cr := { cr with missed := false }
  let s := s.setCrew id cr
  let doomed : Bool := !s.canSave id cr
  if cs.contains 2 then (s.discardCrew id).countCrew cr 2
  else if cs.contains 1 || cs.contains 3 then
    let s := if cs.contains 3 then s.miss id cr else s
    let cr := (s.crew? id).getD cr
    if doomed then s.cannotSave id cr else (s.requestSave id cr).countCrew cr 1
  else (s.setCrew id { cr with mode := .draining, drainBy := s.drainEnd p }).countCrew cr 0
/-- Crews of a partition that run. -/
def State.runningCrews (s : State) (p : Nat) : List (Nat × Crew) :=
  (s.partCrews p).filter fun e => e.2.ending.isNone && !e.2.isOver && e.2.mode == .running
def State.preemptAll (s : State) (p : Nat) (crews : List (Nat × Crew)) : State :=
  let cs := (crews.flatMap fun e => s.crewClusters e.1 e.2).eraseDups
  let choices := cs.map fun c => (c, s.clusterChoice p c)
  let choice (c : Nat) : Nat := ((choices.find? (·.1 == c)).map (·.2)).getD 0
  crews.foldl (fun s e => s.preempt p choice e.1 e.2) s
/-- A switch starts: pre-emption of the outgoing tenant's crews, with its deadline (R113, R116). -/
def State.startSwitch (s : State) (p : Nat) (out : Option Nat) (inc : Nat) : State :=
  let s := (s.setRegBit (rPartStat p) 32 true).setPart p ⟨none, 1, out, some inc, []⟩
  (s.preemptAll p (s.runningCrews p)).at' (cycleOf (s.drainEnd p)) (.drainDeadlineExpiry p)
/-- The end of a slice, once it is due: the next tenant, a renewal, or no end while no tenant has work (R112). Crews on a
cluster that is forced off are pre-empted at it, a renewal too, under the same deadline (R95, R116). -/
def State.endSlice (s : State) (p : Nat) : State :=
  match s.curTenant p with
  | none => s
  | some cur =>
    match s.chooseTenant p (some cur) with
    | (s, none) => s
    | (s, some t) =>
      if t = cur then
        let e := s.timeNs + 1000 * s.regBits (rPartCtl p) 31 16
        let forced := (s.runningCrews p).filter fun x => (s.crewClusters x.1 x.2).any fun c => s.gate c == 2 || s.gate c == 4
        let s := ((s.setPart p { s.part p with ends := some e }).preemptAll p forced).at' (cycleOf e) (.sliceEnd p)
        if forced.isEmpty then s else s.at' (cycleOf (s.drainEnd p)) (.drainDeadlineExpiry p)
      else s.startSwitch p (some cur) t
/-- SLICE_END. -/
def execSliceEnd (p : Nat) (s : State) : Res :=
  let r := s.part p
  .next (if r.stage = 0 && (match r.ends with | some e => decide (e ≤ s.timeNs) | none => false) then s.endSlice p else s)
/-- DRAIN_DEADLINE_EXPIRY: what still drains is saved from now on (R116). -/
def execDrainDeadlineExpiry (p : Nat) (s : State) : Res :=
  .next <| ((s.partCrews p).filter fun e => e.2.mode == .draining && !e.2.isOver && decide (e.2.drainBy ≤ s.timeNs)).foldl (fun s e =>
    let s := s.miss e.1 e.2
    let cr := (s.crew? e.1).getD e.2
    if s.canSave e.1 cr then (s.requestSave e.1 cr).countCrew cr 1 else s.cannotSave e.1 cr) s

/- The switch (R113, R118, R167) -/
/-- Hint writes of a partition that have not performed perform now, into the outgoing tenant's words (R113). -/
def State.flushHints (s : State) (p : Nat) : State :=
  let mine (x : Posted) : Bool := match x.hint with | some (q, _) => q == p | none => false
  let s' := (s.posted.filter mine).foldl (fun s x => match x.hint with
    | some (q, w) => s.modBin fun b => { b with hints := Map.set 0 b.hints (8 * q + w) (BitVec.ofNat 32 (leAt x.bytes 0 4)) }
    | none => s) s
  { s' with posted := s'.posted.filter fun x => !mine x }
/-- The hint words of a partition. -/
def State.hintWords (s : State) (p : Nat) : List W32 := (List.range 8).map fun w => Map.get 0 s.bin.hints (8 * p + w)
def State.hintBytes (s : State) (p : Nat) : List Byte :=
  (s.hintWords p).flatMap (fun w => leBytes 4 w.toNat) ++
  leBytes 2 (Map.get 0 s.bin.events p).toNat ++ List.replicate 30 0
def State.loadHints (s : State) (p : Nat) (bs : List Byte) : State :=
  let s := (List.range 8).foldl (fun s w =>
    s.modBin fun b => { b with hints := Map.set 0 b.hints (8 * p + w) (BitVec.ofNat 32 (leAt bs (4 * w) 4)) }) s
  s.modBin fun b => { b with events := Map.set 0 b.events p (BitVec.ofNat 16 (leAt bs 32 2)) }
/-- The switch record of a tenant that has a save area, written and read as the system at its frame 0, wherever that lies. A
write that faults leaves it as it was; a read that faults loads zeros (R113, R118; see the log). -/
def State.saveHints (s : State) (p t : Nat) : State :=
  if s.regBits (rSaveFrames t) 31 0 = 0 then s
  else (s.sysWrite' (some t) (s.reg (rSaveBase t)).toNat (s.hintBytes p)).1.chargeBytes t 1 64
def State.readHints (s : State) (p t : Nat) : State :=
  if s.regBits (rSaveFrames t) 31 0 = 0 then s.loadHints p []
  else match s.sysRead' (some t) (s.reg (rSaveBase t)).toNat 64 with
    | (s, .ok bs) => (s.loadHints p bs).chargeBytes t 1 64
    | (s, .error _) => s.loadHints p []
def State.framesOf (s : State) (t : Nat) : List (Nat × Frame) :=
  s.tier.frames.filter fun e => e.2.owned && e.2.owner == t
/-- Sweep, write-back and write-down of an outgoing tenant (R167, steps 1 to 3). -/
def State.swapOut (s : State) (a : Nat) : State :=
  let s := (s.framesOf a).foldl (fun (s : State) (e : Nat × Frame) => s.setFrame e.1 { e.2 with recd := e.2.cur, cur := false }) s
  let s := s.writeBackAll fun _ x => x.owner == a
  (s.framesOf a).foldl (fun (s : State) (e : Nat × Frame) =>
    if e.2.state = .resident && e.2.dirty && e.2.kind ≠ 0 then
      let s := s.flushFrame e.1 false
      let f := s.frame e.1
      if f.state ≠ .resident then s
      else match s.toBacking f with
        | (s, true) => (s.setFrame e.1 { f with dirty := false }).chargeBytes a f.tier 65536
        | (s, false) => s.retireFrame e.1 none 0xFFFF
    else s) s
/-- The fetch of an incoming tenant's recorded working set, charged to it (R167, step 4; R120). -/
def State.swapIn (s : State) (p b : Nat) : State :=
  let fs := ((s.framesOf b).filter fun e => e.2.recd && e.2.state == .absent).map (·.1)
  let s := s.modTier fun t => { t with swap := Map.put t.swap p fs }
  fs.foldl (fun s f => s.fetchFor f (some b)) s
/-- Pre-emption of a partition is over. -/
def State.preempted (s : State) (p : Nat) : Bool :=
  (s.part p).stage == 1 && (s.partCrews p).all fun e => e.2.mode == .saved && e.2.ending.isNone
/-- The signals and law faults that the outgoing tenant's laws left in this frame go with it: of its event register only what the
switch record takes lives on (R113, R124). -/
def State.dropSignals (s : State) (p : Nat) : State :=
  s.modBin fun b => { b with sigs := b.sigs.filter (·.1 != p), lawFault := b.lawFault.filter (· != p) }
/-- The cores are clear, hints are exchanged, the incoming tenant holds the slice, and the memory swap begins. -/
def State.switchClear (s : State) (p : Nat) : State :=
  let r := s.part p
  match r.incoming with
  | none => s
  | some b =>
    if !(s.preempted p || r.stage == 2) then s
    else
      let s := (s.flushHints p).dropSignals p
      let words := s.hintWords p
      let s := (s.partCores p).foldl (fun s c => (s.zeroBuffers c).clearCaches c) s
      let s := match r.outgoing with | some a => s.saveHints p a | none => s
      let s := s.readHints p b
      let s := s.setPart p { r with stage := 3, words := words }
      let s := match r.outgoing with | some a => s.swapOut a | none => s
      s.swapIn p b
/-- SWITCH_CLEARING_DONE. -/
def execSwitchClearingDone (p : Nat) (s : State) : Res :=
  .next (s.wholeEvent (.switchClearingDone p) fun s => s.switchClear p)
/-- The memory swap of a partition waits for no frame any more. -/
def State.swapOver (s : State) (p : Nat) : Bool :=
  s.tier.swap.any fun e => e.1 == p && e.2.all fun f => (s.frame f).state != .inFlight && (s.frame f).state != .absent
/-- SCARAB_SWAP_DONE: what is still in SCRUB is scrubbed, in ascending frame number (R167, step 5). -/
def execScarabSwapDone (p : Nat) (s : State) : Res :=
  .next <|
    if !s.swapOver p then s
    else
      let fs := (s.tier.frames.filter fun e => e.2.state == .scrub).map (·.1)
      let s := fs.foldl (fun s f => (s.scrubNow f).1) s
      s.modTier fun t => { t with swap := t.swap.filter (·.1 != p) }

/- The partition block (R107 to R109) -/
def State.rejectPart (s : State) (p : Nat) : State := s.setRegBit (rPartCtl p) 63 true
/-- Fenced cores whose cluster no partition holds, with a spare left, are remapped later (R19). -/
def State.offerSpares (s : State) : State :=
  (s.fenced.filter fun c => (s.partOfCluster (clusterOf c)).isNone &&
    s.regBits rPkgSpare (16 * dieOfCore c + 2) (16 * dieOfCore c) != 0).foldl (fun s c => s.later (.spareCoreRemap c)) s
/-- PARTITION_RESET: of PART_STAT's tenant only CUR_VALID is cleared. -/
def State.resetPart (s : State) (p : Nat) : State :=
  let s := s.endCrews p 0xC7
  let plans := (List.range 256).filter fun n => s.planValid n && s.tenantPart (s.planTenant n) == p
  let s := plans.foldl (fun s n =>
    let s := ((s.planHeld n).filter fun i => s.seqState i == seqACTIVE).foldl (fun s i => s.failSeq i 0xC7) s
    match s.stepRun n with
    | some r => (s.dropTry (planGate n)).setStep n { r with failed := true }
    | none => s) s
  let s := (s.partCores p).foldl (fun s c => (s.zeroBuffers c).clearCaches c) s
  let s := s.clearPartScratch p
  let s := s.loadHints p []
  let s := (s.setRegBit (rPartStat p) 6 false).setRegBit (rPartStat p) 32 false
  let s := s.modTier fun t => { t with swap := t.swap.filter (·.1 != p) }
  s.setPart p .start
def execPartitionReset (p : Nat) (s : State) : Res := .next (s.served (rPartCtl p) fun s => s.resetPart p)
/-- The cluster set that a write to one of its halves would make. -/
def State.newClusters (s : State) (p off : Nat) (v : Word) : Nat :=
  if off = 0 then v.toNat + s.regBits (rPartClHi p) 31 0 * 2 ^ 64 else (s.reg (rPartClLo p)).toNat + Word.bits v 31 0 * 2 ^ 64
def State.writeClusters (s : State) (p off : Nat) (v : Word) : State :=
  let old := s.partClusters p
  let new := s.newClusters p off v
  let named := (List.range 96).filter fun c => if off = 0 then decide (c < 64) && hasBit new c else decide (64 ≤ c) && hasBit new c
  if s.partFrozen p then s.frozenWrite p
  else if (s.partEnabled p && new ≠ old) || (named.any fun c => (List.range 32).any fun q => q != p && s.partHas q c) ||
      (named.any fun c => s.dieState (c / 24) != 2) then s.rejectPart p
  else (s.setReg (rPart p off) (if off = 0 then v else v &&& 0xFFFFFFFF)).offerSpares
/-- A write to PART_CTL. An interface's lock freezes ENABLE, SLICE_US and DEADLINE_US, not REJECT and RESET (R68, R108). -/
def State.writePartCtl (s : State) (p : Nat) (v : Word) : State :=
  let k := rPartCtl p
  let reset (s : State) : State := if v.getLsbD 48 then s.resetPart p else s
  let s := if v.getLsbD 63 then s.setRegBit k 63 false else s
  if s.partFrozen p then reset (s.frozenWrite p)
  else if (v.getLsbD 32 && s.partClusters p = 0) || (!v.getLsbD 32 && s.partEnabled p && !(s.partCrews p).isEmpty) ||
      decide (Word.bits v 31 16 < 10) || Word.bits v 15 0 = 0 then s.rejectPart p
  else reset ((s.setRegBit k 32 (v.getLsbD 32)).setRegBits k 31 0 (Word.bits v 31 0))
/-- PART_WRITE, which is ignored while the register does not answer (R26). -/
def execPartWrite (p off : Nat) (v : Word) (s : State) : Res :=
  .next <| s.served (rPart p off) fun s =>
    if off = 0 || off = 8 then s.writeClusters p off v
    else if off = 0x10 then s.writePartCtl p v
    else s
/-- ACCT_ADD: exhaustion is judged after it (R119, R121). -/
def execAcctAdd (t : Nat) (v : Word) (s : State) : Res := .next (s.served (rAcctBal t + 8) fun s => s.addBalance t v.toInt)

end Sys2Proof.Machine
end

