-- ==== Sys2Proof/Machine/Pass.lean ====
section
/-! DEFINITION. Scheduling passes (R127): deadlines, step boundaries, the entry of a tenant, placement of waiting work, and
crews for the system (R112, R142, R145 to R147, R401). -/

namespace Sys2Proof.Machine

/-- What an attempt to place a piece of work came to: it is placed, it is gone (refused), or it waits. -/
inductive Tried where
  | placed
  | gone
  | waits
  deriving DecidableEq, Repr
/-- More dies than are LIVE (R23). -/
def State.tooManyDies (s : State) (im : Image) : Bool := decide (s.liveDies.length < im.d)
/-- A policy other than the standard one may refuse work (R125). -/
def State.policyRefuses (s : State) : State × Bool :=
  if Config.standardPolicy s.fwHeader then (s, false)
  else ({ s with fresh := s.fresh + 1 }, Config.policy s.fresh % 2 == 1)
/-- An attempt for an image and an order, after its refusals: its gate, its fit, its placement (R146, R147). `refuse` ends
the work with a reason. -/
def State.tryOrder (s : State) (p t key image resset resn : Nat) (o : Order) (refuse : State → Nat → State) : State × Tried :=
  match s.policyRefuses with
  | (s, true) => (refuse s 0xE0, .gone)
  | (s, false) =>
  match s.imageFor key (some t) image with
  | (s, .error e) => (refuse s e, .gone)
  | (s, .ok im) =>
    if s.tooManyDies im then (refuse s 0xE5, .gone)
    else if s.neverFits im (s.partHas p) then (refuse s 0xE2, .gone)
    else match s.gateTest p key t resset resn with
      | (s, .error e) => (refuse s e, .gone)
      | (s, .fail) => (s, .waits)
      | (s, g) =>
        match s.findPlace im (s.partHas p) with
        | (s, none) => (s, .waits)
        | (s, some (chosen, tag)) =>
          match s.readBody (some t) im with
          | (s, .error e) => (refuse s e, .gone)
          | (s, .ok im) =>
            match s.placeCrew o im chosen tag with
            | none => (refuse s 0xE2, .gone)
            | some s => ((s.gateDone key g).began p t, .placed)
/-- The DEADLINE of a launch record has passed (R142). -/
def State.pastDeadline (s : State) (t i : Nat) : Bool :=
  let d := s.launchNum t i 48 8
  d != 0 && decide (d < s.timeNs)
def State.tryLaunch (s : State) (p t i : Nat) : State × Tried :=
  if s.pastDeadline t i then (s.endLaunch t i launchFAILED 0xE1 0xFFFF, .gone) else
  let ctl := s.launchNum t i 24 8
  let o : Order := ⟨some t, some p, some i, none, ctl % 8, hasBit ctl 3, BitVec.ofNat 64 (s.launchNum t i 16 8), 0, 0⟩
  match s.tryOrder p t (launchGate t i) (s.launchNum t i 8 8) (s.launchNum t i 32 8) (s.launchNum t i 40 4) o
      (fun s e => s.endLaunch t i launchFAILED e 0xFFFF) with
  | (s, .placed) => (s.setLaunch t i launchTAKEN 0, .placed)
  | x => x
def State.tryKernel (s : State) (p t n : Nat) : State × Tried :=
  match s.stepRun n with
  | none => (s, .gone)
  | some r =>
    let entry := s.planBuf n + 65536 * ((s.planStep n - 1) % 2)
    let o : Order := ⟨some t, some p, none, some (n, r.kernel), s.planPrio n, false, s.plan n (0x38 + 16 * r.kernel),
      BitVec.ofNat 64 entry, 0⟩
    match s.tryOrder p t (planGate n) (s.plan n (0x30 + 16 * r.kernel)).toNat 0 0 o (fun s e => s.failStep n e 0xFFFF) with
    | (s, .placed) => (s.setStep n { r with placed := true }, .placed)
    | x => x
/-- A saved crew resumes where it was saved, once its gate passes, its tag number is free and its area reads (R41, R111,
R118, R147). -/
def State.trySaved (s : State) (p t id : Nat) : State × Tried :=
  match s.crew? id with
  | none => (s, .gone)
  | some cr =>
      let (rs, rn) := match cr.launch with
        | some i => (s.launchNum t i 32 8, s.launchNum t i 40 4)
        | none => (0, 0)
      match s.gateTest p (crewGate id) t rs rn with
      | (s, .error e) => (s.failCrew id e 0xFFFF, .gone)
      | (s, .fail) => (s, .waits)
      | (s, g) =>
        let dies := (cr.savedCx.map fun e => dieOf e.1).eraseDups
        let tagOk : Bool := match cr.tag with | none => true | some x => dies.all fun d => !(s.tagsOn d).contains x
        let on : Bool := cr.savedCx.all fun e =>
          s.placeFree e && s.gate (e.1 / 16) != 2 && s.gate (e.1 / 16) != 4
        if !(tagOk && on) then (s, .waits)
        else match s.readArea t cr.frames with
          | (s, false) => (s.failCrew id 0xE7 0xFFFF, .gone)
          | (s, true) => (((s.restoreCrew id cr).gateDone (crewGate id) g).began p t, .placed)
/-- Saved crews of the tenant that holds the slice end when one of their cores has been fenced since (R111). -/
def State.endFenced (s : State) (t : Nat) : State :=
  (s.savedOf t).foldl (fun s e =>
    match e.2.savedCx.find? fun x => s.fenced.contains (coreOf x.1) with
    | some x => s.failCrew e.1 0x0A (coreOf x.1)
    | none => s) s
/-- Waiting work in its order; the first that waits, be it for a translation, stops placement for this pass (R52, R146). -/
def State.placeItems (s : State) (p t : Nat) : List Item → State
  | [] => s
  | i :: r =>
    let (s, x) := match i.cls with
      | 0 => s.whole (.item (crewGate i.n)) fun s => s.trySaved p t i.n
      | 1 => s.whole (.item (planGate i.n)) fun s => s.tryKernel p t i.n
      | 2 => s.whole (.item (launchGate t i.n)) fun s => s.tryLaunch p t i.n
      | _ => (s, some .gone)
    match x with
    | none | some .waits => s
    | _ => s.placeItems p t r
/-- No crews are placed while the function is CONFIG_LOCKED, in ERROR or stopping (R68). -/
def State.mayPlace (s : State) (p : Nat) : Bool := s.partEnabled p && (s.tdispState (p + 1) == 0 || s.tdispState (p + 1) == 2)
/-- The tenant whose work may be placed in a partition: the current one, or the incoming one from the end of stage 2 on. -/
def State.placingTenant (s : State) (p : Nat) : Option Nat :=
  let r := s.part p
  if r.stage = 0 then s.curTenant p else if r.stage = 3 then r.incoming else none
def State.placePart (s : State) (p : Nat) : State :=
  match s.placingTenant p with
  | none => s
  | some t =>
    let s := s.endFenced t
    if s.mayPlace p && !s.pilot.broke.contains t then
      let x := s.shuffle (s.waiting t)
      x.1.placeItems p t x.2
    else s
/-- Idle plans of the tenant that holds the slice repeat their boundary (R135). -/
def State.boundaries (s : State) (p : Nat) : State :=
  match s.placingTenant p with
  | none => s
  | some t => (s.planTenants t).foldl (fun s n => s.tryBoundary n) s
/-- A READY launch whose DEADLINE has passed fails (R142). -/
def State.deadlines (s : State) (t : Nat) : State :=
  ((s.launches t launchREADY).filter (s.pastDeadline t)).foldl (fun s i => s.endLaunch t i launchFAILED 0xE1 0xFFFF) s
/-- Slices at a pass: a partition without a tenant takes one; a slice that has not begun, or that is over, ends when another
tenant has work; a switch without work left completes (R112, R113, R145). -/
def State.turnSlices (s : State) (p : Nat) : State :=
  let r := s.part p
  if r.stage = 3 then
    (match r.incoming with
    | some t =>
      if (s.waiting t).isEmpty then
        ((s.setRegBits (rPartStat p) 6 0 (64 + t)).setRegBit (rPartStat p) 32 false).setPart p
          { r with stage := 0, outgoing := none, incoming := none }
      else s
    | none => s)
  else if r.stage ≠ 0 then s
  else match s.curTenant p with
    | none =>
      (match s.chooseTenant p none with
      | (s, some t) => s.startSwitch p none t
      | (s, none) => s)
    | some t =>
      match r.ends with
      | none => if (s.waiting t).isEmpty then s.endSlice p else s
      | some e => if e ≤ s.timeNs then s.endSlice p else s
/-- An attempt to place a crew of the system; true once it waits no more: placed, or given up for a table or a read that fails
(R401). -/
def State.placeSystem (s : State) (w : SysCrew) : State × Bool :=
  let has (c : Nat) : Bool := hasBit w.mask c && (s.partOfCluster c).isNone && s.dieState (c / 24) == 2
  match s.readHead none w.image.toNat with
  | (s, .error _) => (s, true)
  | (s, .ok x) =>
    match s.findPlace (imageOf w.image.toNat x) has with
    | (s, none) => (s, false)
    | (s, some (chosen, tag)) =>
      match s.readBody none (imageOf w.image.toNat x) with
      | (s, .error _) => (s, true)
      | (s, .ok im) => ((s.placeCrew ⟨none, none, none, none, 0, false, w.args, 0, w.done⟩ im chosen tag).getD s, true)
/-- One that does not fit, or that lacks a translation (R52), waits for the next pass. -/
def State.trySystem (s : State) (w : SysCrew) : State :=
  match s.whole (.system w) fun s => s.placeSystem w with
  | (s, some true) => s
  | (s, _) => s.modPilot fun p => { p with sysWait := p.sysWait ++ [w] }
/-- Crews of the system at a pass: those that wait, then one that the policy asks for now (R401). -/
def State.systemCrews (s : State) : State :=
  let new := match Config.systemCrew s.fresh with
    | none => []
    | some (image, args, mask, done) => [⟨image, args, mask, done⟩]
  let ws := s.pilot.sysWait ++ new
  ws.foldl State.trySystem ({ s with fresh := s.fresh + 1 }.modPilot fun p => { p with sysWait := [] })
/-- A scheduling pass; the next one follows after PASS_NS (R127). -/
def State.pass (s : State) : State :=
  let s := s.bump rPilotStat 31 0
  let s := s.at' (cycleOf (s.timeNs + s.regBits rPilotCtl 15 0)) .schedPass
  let s := s.pumpRecords
  let s := if s.committed then (List.range 64).foldl (fun s t => s.deadlines t) s else s
  let ps := (List.range 32).filter s.partEnabled
  let s := ps.foldl (fun s p => s.boundaries p) s
  let s := ps.foldl (fun s p => s.turnSlices p) s
  let s := ps.foldl (fun s p => s.placePart p) s
  let s := s.pumpFetch
  s.systemCrews
/-- SCHED_PASS, from stage 0x07 on. -/
def execSchedPass (s : State) : Res := .next (if 7 ≤ s.stage && s.bootError = 0 && !s.tripped then s.pass else s)
/-- GATE_WAIT_EXPIRY: a crew whose gate has waited GATE_WAIT_US is placed anyway, if it fits (R147). -/
def execGateWaitExpiry (p : Nat) (s : State) : Res :=
  .next <|
    let wait := 1000 * s.regBits rPilotCtl 47 32
    if s.partEnabled p && s.pilot.gates.any fun e => decide (e.2 + wait ≤ s.timeNs) then s.placePart p else s

end Sys2Proof.Machine
end

