-- ==== Sys2Proof/Machine/Package.lean ====
section
/-! DEFINITION. The package (01_package.md): resets and boot stages (R24 to R26), image sets (R60, R61), spares and repairs
(R19 to R21), die retirement (R22), the trip (R12), and configuration requests. -/

namespace Sys2Proof.Machine

/- Image sets (R60, R61) -/
/-- RESULT of a verification of the set read through `rd`: 1 when every check passes. -/
def verifySet (svnMin : Nat) (rd : Nat → Nat → List Byte) : Nat :=
  let h := rd 0 512
  let zero (o n : Nat) : Bool := (List.range n).all fun i => byteAt h (o + i) == 0
  let comp (i : Nat) : Nat × Nat × Nat := (leAt h (16 + 64 * i) 4, leAt h (20 + 64 * i) 4, leAt h (24 + 64 * i) 4)
  let comps := [comp 0, comp 1, comp 2]
  let apart (a b : Nat × Nat × Nat) : Bool := decide (a.2.1 + a.2.2 ≤ b.2.1) || decide (b.2.1 + b.2.2 ≤ a.2.1)
  let kinds := comps.map (·.1)
  let layout : Bool := [1, 2, 3].all kinds.contains && comps.all (fun c => decide (c.2.1 + c.2.2 ≤ 2 ^ 24)) &&
    apart (comp 0) (comp 1) && apart (comp 0) (comp 2) && apart (comp 1) (comp 2)
  let slot := byteAt h 9
  let key := (h.drop 208).take 97
  if !(leAt h 0 4 == 0xCD1FA4B0 && leAt h 4 2 == 512 && leAt h 6 2 == 1 && decide (slot ≤ 3) && zero 10 6 &&
      [0, 1, 2].all (fun i => zero (28 + 64 * i) 4) && zero 305 15 && zero 416 96 && layout) then 2
  else if Config.sha384 key ≠ Config.keyDigest slot then 3
  else if Config.keyRevoked.getLsbD slot then 4
  else if byteAt h 8 < svnMin then 5
  else if !Config.ecdsaVerify (h.take 320) key ((h.drop 320).take 48) ((h.drop 368).take 48) then 6
  else if [0, 1, 2].all fun i => Config.sha384 (rd (comp i).2.1 (comp i).2.2) == (h.drop (32 + 64 * i)).take 48 then 1
  else 7
def bootBytes (o n : Nat) : List Byte := (Config.bootImage.drop o).take n
def State.staged (s : State) (o n : Nat) : List Byte := s.bytes (stagingKey o) n

/- Repairs (R19 to R21) -/
/-- Entries of the repair record: a core, or 2^10 and a slice; one that found the array full stands 2^20 higher. -/
def sliceEntry (sl : Nat) : Nat := 1024 + sl
def recorded (l : List Nat) : List Nat := l.filter (· < 2 ^ 20)
def State.record (s : State) (e : Nat) : State :=
  { s with repairs := s.repairs ++ [if (recorded s.repairs).length < 64 then e else e + 2 ^ 20] }
def State.spareCores (s : State) (d : Nat) : Nat := s.regBits rPkgSpare (16 * d + 2) (16 * d)
def State.spareSlices (s : State) (d : Nat) : Nat := s.regBits rPkgSpare (16 * d + 12) (16 * d + 8)
def State.setSpareCores (s : State) (d n : Nat) : State := s.setRegBits rPkgSpare (16 * d + 2) (16 * d) n
def State.setSpareSlices (s : State) (d n : Nat) : State := s.setRegBits rPkgSpare (16 * d + 12) (16 * d + 8) n
/-- A spare core takes a logical number; the repair is recorded in the same action (R10, R19, R21). -/
def State.remapCore (s : State) (core : Nat) : State :=
  let d := dieOfCore core
  let n := s.spareCores d
  let s := (s.setSpareCores d (n - 1)).record core
  { s with remap := Map.put s.remap core (95 + n), fenced := s.fenced.filter (· != core) }
/-- Stage 0x01: the spares that are left, the fused remap table with the repair record over it (R10, R25), and failed cores:
each takes a spare if the array holds the repair and one is left, else it stays fenced (R19, R20). A core whose repair the
array had no room for is fenced; so is one that failed again after its repair, until it takes another spare. -/
def State.readFuses (s : State) : State :=
  let rec' := recorded s.repairs
  let lost := s.repairs.filter (2 ^ 20 ≤ ·)
  let s := (List.range 4).foldl (fun s d =>
    let used := (rec'.filter fun e => e < 1024 && dieOfCore e == d).length
    let usedS := (rec'.filter fun e => 1024 ≤ e && (e - 1024) / 384 == d).length
    (s.setSpareCores d (Config.spareCores d - used)).setSpareSlices d (Config.spareSlices d - usedS)) s
  let failed := (s.fenced ++ Config.fencedAtReset.filter fun c => !rec'.contains c).eraseDups
  let stuck := (lost.filter (· < 2 ^ 20 + 1024)).map (· - 2 ^ 20)
  let fused := (List.range 4).flatMap Config.fusedRemap
  let repaired := s.remap.filter fun e => rec'.contains e.1
  let s := { s with
    fenced := (failed ++ stuck).eraseDups
    remap := (fused ++ repaired).foldl (fun (m : Map Nat) (e : Nat × Nat) => Map.put m e.1 e.2) [] }
  let s := (failed.filter fun c => !stuck.contains c).foldl (fun s c =>
    if 0 < s.spareCores (dieOfCore c) && (recorded s.repairs).length < 64 then s.remapCore c else s) s
  let s := (lost.filter (2 ^ 20 + 1024 ≤ ·)).foldl (fun s e =>
    s.modTier fun t => { t with disable := Map.set 0 t.disable (e - 2 ^ 20 - 1024) 0xFFFF }) s
  (s.setRegBits rUalState 47 44 Config.spareLanes).setRegBits rFwStatus 47 40 s.svnMin.toNat

/- Resets (R24, R25) -/
/-- Memory outside the package: host and peers. -/
def outside (k : Nat) : Bool := decide (2 ^ 72 ≤ k) && decide (k < 2 ^ 90)
/-- Partitions whose tenants have a law loaded: a reset unloads it, with LAW_FAULT set (R83). -/
def State.lawParts (s : State) : List Nat :=
  let dropped := s.bin.acts.filterMap fun a => match a with
    | .drop slot p => some (slot, p)
    | _ => none
  (s.bin.laws.filterMap fun e => e.2.tenant.map fun t =>
    ((dropped.find? (·.1 == e.1)).map (·.2)).getD (s.tenantPart t)).eraseDups
/-- A cold reset: every stage runs; what survives is the world outside, the one-time array, and the burned SVN. -/
def State.cold (s : State) : State :=
  let r := State.reset
  let r := { r with
    mem := s.mem.filter fun e => outside e.1
    fenced := s.fenced
    remap := s.remap
    repairs := s.repairs
    svnMin := s.svnMin
    fresh := s.fresh
    nextId := s.nextId
    bin := { r.bin with lawFault := s.lawParts } }
  r.setRegBits rBootStage 7 0 1
def execColdReset (s : State) : Res := .next s.cold

/-- Stage 0x04: cache ways invalid, scratch zero, owner tags cleared. A slice's copy goes on. -/
def State.initStack (s : State) : State :=
  let s := { s with mem := s.mem.filter fun e => !(decide (scratchKey 0 ≤ e.1) && decide (e.1 < scratchKey (2 ^ 31))) }
  s.modTier fun t => { t with stack := [], scrMark := [], scrHeld := [], vecMark := [] }
/-- Memory that a warm reset clears: typed buffers, tables, text copies and saved members. -/
def warmCleared (k : Nat) : Bool :=
  (decide (bufKey 0 0 0 ≤ k) && decide (k < 2 ^ 110)) || decide (2 ^ 111 ≤ k)
/-- Events of the package that a warm reset leaves on their way: what memory, ports, images and a retirement have begun. -/
def outlivesWarm : Instr → Bool
  | .dieRetirementDone _ | .sliceCopyDone .. | .frameFetchDone .. | .frameEvictDone _ | .frameScrubDone _ | .wayMaskApplied _
  | .fmapCommandDone | .portRetrainDone .. | .fwVerifyDone | .invalidationCompletion _ => true
  | _ => false
/-- A warm reset: stages 0x04 to 0x08 run again; HBM keeps its contents, the frame map is kept, and every frame that holds
a HBM frame enters SCRUB (R24). Commands are charged to their end (R120). Gates are on, ENV_CAP is 64 and hint words are zero, as at
any reset (R95, R97, R105). Registers that the spec gives no other value keep theirs (see the log). -/
def State.warm (s : State) : State :=
  let s := s.lawParts.foldl (fun s p => s.addFault (some p)) s
  let s := s.pilot.crews.foldl (fun (s : State) (e : Nat × Crew) => (s.failCrew e.1 0 0xFFFF).payOwed e.1) s
  let again : List (Nat × Instr) := s.waits.filterMap fun w => match w.task with
    | .event i => if outlivesWarm i then some (s.g, i) else none
    | _ => none
  let s := { s with
    mem := s.mem.filter fun e => !warmCleared e.1
    ctxs := []
    cores := []
    atc := []
    ats := []
    waits := []
    posted := []
    priUsed := []
    colls := []
    owed := []
    tdisp := []
    iss := .none
    mover := .wait
    todo := []
    agenda := again ++ s.agenda.filter fun (e : Nat × Instr) => outlivesWarm e.2
    pilot := { Pilot.start with nextCrew := s.pilot.nextCrew, broke := s.pilot.broke } }
  let s := s.initStack
  let s := s.modTier fun t => { t with migs := [], migSeen := [], swap := [], off := [], waking := [] }
  let s := (s.tier.frames.filter fun e => e.2.placed).foldl (fun s e => s.scrubFrame e.1) s
  let s := s.modBin fun b =>
    { b with laws := [], acts := [], asks := [], sigs := [], run := none, snapped := none, gate := [], gateNext := [], envCap := [],
             capNext := [], hints := [] }
  let s := [rFeatAcceptLo, rFeatAcceptHi, rFeatCommit].foldl (fun s k => s.setReg k 0) s
  let s := (List.range 33).foldl (fun s fn => s.setReg (rLawStatus fn) 0) s
  let s := (List.range 32).foldl (fun s p => (s.setRegBits (rPartStat p) 6 0 0).setRegBit (rPartStat p) 32 false) s
  s.setReg rBootStage 4
/-- A warm reset. While stages 0x01 to 0x03 run, they go on; with ERROR 1, 2 or 5 only a cold reset restarts the sequence
(R26; see the log). -/
def execWarmReset (s : State) : Res :=
  .next (if (s.bootError = 0 && s.stage < 4) || s.bootError = 1 || s.bootError = 2 || s.bootError = 5 then s else s.warm)

/- Boot stages (R25, R26) -/
/-- The errors that a stage can end with (R18). -/
def stageErrors (stage : Nat) : List Nat :=
  match stage with
  | 1 => [1]
  | 2 => [5]
  | 3 => [2]
  | 5 => [3, 4]
  | _ => []
/-- The system laws of the loaded set (R76): one that breaks a check of R78 is not loaded. -/
def State.systemLaws (s : State) : State :=
  [0, 1].foldl (fun s slot =>
    let (code, params) := Config.systemLaw s.fwHeader slot
    match s.verifyLaw (code.take 64) none with
    | .error _ => s
    | .ok (n, cyc) =>
      s.modBin fun b => { b with laws := Map.put b.laws slot ⟨code.take n, params.take 16, none, [], false, cyc⟩ }) s
/-- A stage ends well: what it did, or the error it meets after all. -/
def State.stageWork (s : State) (stage : Nat) (dies : BitVec 8) : Except Nat State :=
  match stage with
  | 1 => .ok s.readFuses
  | 2 =>
    let st (d : Nat) : Nat := Nat.min 2 ((dies.extractLsb' (2 * d) 2).toNat)
    let s := { s with die := (List.range 4).foldl (fun m d => Map.set 0 m d (st d)) [] }
    if s.liveDies.isEmpty then .error 5 else .ok s
  | 4 => .ok s.initStack
  | 5 =>
    if !s.fwHeader.isEmpty then .ok (s.setRegBits rFwStatus 39 32 (byteAt s.fwHeader 8))
    else if Config.bootImage.isEmpty then .error 4
    else if verifySet s.svnMin.toNat bootBytes = 1 then
      .ok (({ s with fwHeader := bootBytes 0 512 }).setRegBits rFwStatus 39 32 (byteAt (bootBytes 0 512) 8))
    else .error 3
  | 6 => .ok s.systemLaws
  | 7 => .ok (s.at' (cycleOf (s.timeNs + s.regBits rPilotCtl 15 0)) .schedPass)
  | _ => .ok s
/-- A stage fails: ERROR names the cause, and VF Enable stays clear in the recovery state (R26). -/
def State.bootFails (s : State) (e : Nat) : State := ({ s with vfOn := 0 }).setRegBits rBootStage 15 8 e
/-- BOOT_STAGE_COMPLETE: the next stage begins, or ERROR holds and the device is in its recovery state. -/
def execBootStageComplete (error : BitVec 8) (dies : BitVec 8) (s : State) : Res :=
  .next <|
    if s.bootError ≠ 0 || 8 ≤ s.stage then s
    else if (stageErrors s.stage).contains error.toNat then s.bootFails error.toNat
    else match s.stageWork s.stage dies with
      | .ok t => t.setRegBits rBootStage 7 0 (s.stage + 1)
      | .error e => s.bootFails e

/-- CONFIG_REQUEST: Request Retry Status while stages run; in the recovery state SR-IOV stays off (R26, R43, R45, R54). -/
def execConfigRequest (fn : Nat) (req : CfgReq) (s : State) : Res :=
  .next <|
    if s.bootError = 0 && s.stage < 8 then s.send (.config fn 1)
    else
      let s := s.send (.config fn 0)
      match req with
      | .other => s
      | .vfEnable n => if s.bootError ≠ 0 then s else { s with vfOn := Nat.min n 32 }
      | .pri en alloc => { s with pri := Map.set 0 s.pri fn (if en then alloc % 2 ^ 32 + 1 else 0) }
      | .link sp w fl => ((s.setRegBits rHostLink 3 0 sp).setRegBits rHostLink 13 8 w).setRegBit rHostLink 14 fl

/-- THERMAL_TRIP: every arithmetic clock stops until the next cold reset, and a trip record is posted (R12). -/
def execThermalTrip (die : Nat) (s : State) : Res := .next (if s.tripped then s else ({ s with tripped := true }).send (.trip die))

/- Cores and slices (R19 to R21) -/
/-- CORE_FAILURE: the core is fenced; crews with a member on it end with 0x0A and name it (R20). -/
def execCoreFailure (core : Nat) (s : State) : Res :=
  .next <|
    if s.fenced.contains core then s
    else
      let s := { s with fenced := core :: s.fenced }
      let hit := s.pilot.crews.filter fun e => e.2.mode != .saved && e.2.members.any fun x =>
        coreOf x == core && (s.ctx x).crew == some e.1
      (hit.foldl (fun s e => s.failCrew e.1 0x0A core) s).offerSpares
/-- SPARE_CORE_REMAP. -/
def execSpareCoreRemap (core : Nat) (s : State) : Res :=
  .next <|
    if s.fenced.contains core && (s.partOfCluster (clusterOf core)).isNone && 0 < s.spareCores (dieOfCore core) then
      ((s.remapCore core).zeroBuffers core).clearCaches core
    else s
/-- SLICE_COPY_DONE: the copy ends; clean lines go, the quarantined ways count no more, and the repair is recorded (R21). A
line is a block here: one that holds a dirty granule was copied whole (see the log). -/
def execSliceCopyDone (die slice : Nat) (s : State) : Res :=
  let sl := 384 * die + slice
  .next <|
    if !s.tier.copying.contains sl then s
    else
      let s := s.dropGrans fun k x => keySliceIdx k == sl && !s.tier.stack.any fun e =>
        keySet e.1 == keySet k && e.2.frame == x.frame && e.2.blk == x.blk && isDirty e.2
      let s := s.modTier fun t =>
        { t with copying := t.copying.filter (· != sl), disable := Map.set 0 t.disable sl 0 }
      (s.setSpareSlices die (s.spareSlices die - 1)).record (sliceEntry sl)

/- Die retirement (R14, R17, R22) -/
def State.rejectRetire (s : State) : State := s.setRegBit rPkgLive 10 true
/-- DIE_RETIREMENT: a PKG_RETIRE write, which is ignored while the register does not answer (R26). -/
def execDieRetirement (v : Word) (s : State) : Res :=
  let d := Word.bits v 1 0
  .next <| s.served 0x18 fun s =>
    if Word.bits v 15 8 ≠ 0xD1 || !s.feature fRETIRE || s.retiring.isSome || s.dieState d ≠ 2 || s.liveDies.length ≤ 1 then s.rejectRetire
    else
      let s := ({ s with retiring := some (d, v.getLsbD 2) }).setRegBit rPkgLive 9 true
      let on (e : Nat × Crew) : Bool := e.2.ending.isNone && !e.2.isOver && e.2.members.any fun x => dieOf x == d
      let s := (s.pilot.crews.filter on).foldl (fun (s : State) (e : Nat × Crew) =>
        if e.2.restart then s.discardCrew e.1 else s.failCrew e.1 0xE6 0xFFFF) s
      s.later (.dieRetirementDone d)
/-- A RESIDENT frame of a retired die moves to another home, goes down to its backing copy, or is RETIRED (R22, R164). -/
def State.moveFrame (s : State) (f : Nat) : State :=
  let s := s.flushFrame f true
  let e := s.frame f
  if e.state ≠ .resident then s
  else if s.hbmBad e.hbm then s.retireFrame f none 0xFFFF
  else match s.firstFree with
    | some h =>
      let s := (s.copyRange (hbmKey e.hbm 0) (hbmKey h 0) 65536).useHbm h true
      (s.setFrame f { e with hbm := h }).freeHbm e.hbm
    | none =>
      if e.kind = 0 then s.setFrame f { e with state := .retired }
      else
        let (s, ok) := if e.dirty then s.toBacking e else (s, true)
        (s.setFrame f { e with state := if ok then .absent else .retired, dirty := false }).freeHbm e.hbm
/-- The retirement of a die ends. -/
def State.retireDone (s : State) (die : Nat) : State :=
  match s.retiring with
  | none => s
  | some (d, keep) =>
    if d ≠ die then s
    else
      let mine (k : Nat) (_ : Gran) : Bool := keyDie k == d
      let s := (s.writeBackAll mine).dropGrans mine
      let s := (List.range 16).foldl (fun s w => s.clearScratch d w) s
      -- the die is no home for new frames from here on
      let s := { s with die := Map.set 0 s.die d (if keep then 1 else 0) }
      let s := if keep then s else
        let here (e : Nat × Frame) : Bool := e.2.placed && (homeDie e.2.hbm == d ||
          (decide (s.mapFrames.1 ≤ e.2.hbm) && decide (e.2.hbm < s.mapFrames.2)))
        let s := (s.tier.frames.filter here).foldl (fun (s : State) (e : Nat × Frame) =>
          match e.2.state with
          | .resident => s.moveFrame e.1
          | _ => ((s.setFrame e.1 { e.2 with state := .retired }).freeHbm e.2.hbm).countMig e.1 false) s
        s.modTier fun t => { t with used := t.used.filter fun u => homeDie u.1 != d }
      ({ s with retiring := none }).setRegBit rPkgLive 9 false
/-- DIE_RETIREMENT_DONE. -/
def execDieRetirementDone (die : Nat) (s : State) : Res := .next (s.wholeEvent (.dieRetirementDone die) fun s => s.retireDone die)

end Sys2Proof.Machine
end

