-- ==== Sys2Proof/Machine/Fabric.lean ====
section
/-! DEFINITION. The scale-up fabric (R33 to R37): requests of peer packages, lanes and ports. -/

namespace Sys2Proof.Machine

/- Requests of peers (R33) -/
/-- The run of a peer's address: frame number · 65,536 + offset, served as the system (R162, R163; see the log). -/
def State.peerSpot (s : State) (a : Nat) : State × Option Spot :=
  if 2 ^ 40 ≤ a then (s, none)
  else
    let s := s.bringIn (a / 65536)
    if (s.frame (a / 65536)).state = .retired then (s, none) else (s, some (.frame (a / 65536) (a % 65536)))
def State.peerSpots (s : State) : List (Nat × Nat) → State × Option (List (Spot × Nat))
  | [] => (s, some [])
  | (a, k) :: r =>
    match s.peerSpot a with
    | (s, none) => (s, none)
    | (s, some sp) => match s.peerSpots r with
      | (s, none) => (s, none)
      | (s, some l) => (s, some ((sp, k) :: l))
def State.peerRead (s : State) (a n : Nat) : State × Option (List Byte) :=
  match s.peerSpots (runsOf a n) with
  | (s, none) => (s, none)
  | (s, some l) => match s.readSpots [] l with
    | (s, .ok bs) => (s, some bs)
    | (s, .error _) => (s, none)
def State.peerWrite (s : State) (a : Nat) (bs : List Byte) : State × Bool :=
  match s.peerSpots (runsOf a bs.length) with
  | (s, none) => (s, false)
  | (s, some l) => s.writeSpots bs l
/-- What a peer's request comes to: read, write and atomic requests; any other is answered as unsupported. -/
def State.servePeer (s : State) (req : PeerReq) : State :=
  let bad (s : State) : State := s.send (.peer 1 [])
  match req with
    | .other => bad s
    | .read a n => match s.peerRead a n with
      | (s, some bs) => s.send (.peer 0 bs)
      | (s, none) => bad s
    | .write a bs => match s.peerWrite a bs with
      | (s, true) => s.send (.peer 0 [])
      | (s, false) => bad s
    | .atomic fn a n v =>
      if !(n == 4 || n == 8) || a % n ≠ 0 || 9 < fn then bad s
      else match s.peerRead a n with
        | (s, none) => bad s
        | (s, some old) =>
          match s.peerWrite a (leBytes n (amoCombine fn n (leAt old 0 n) (v.toNat % 2 ^ (8 * n)))) with
          | (s, true) => s.send (.peer 0 old)
          | (s, false) => bad s

/-- PEER_REQUEST: it waits while a frame of it lacks something; a later one may be served before it (R52; see the log). -/
def execPeerRequest (req : PeerReq) (s : State) : Res := .next (s.wholeEvent (.peerRequest req) fun s => s.servePeer req)

/- Ports (R35 to R37) -/
/-- A port's UP bit; what waited for a port is tried again once one is up (R34). -/
def State.portUp (s : State) (port : Nat) (b : Bool) : State :=
  let s := s.setRegBit rUalState port b
  if b then s.pumpFetch.supply (· == .port) [] else s
/-- A failure of a port's lane: retraining onto the group's spare lane, or down until the next cold reset (R35). A group takes
its spare while SPARES_LEFT is not 0, whichever groups' spares were missing at reset (see the log). -/
def State.laneFails (s : State) (port : Nat) : State :=
  let q := port / 4
  let left := s.regBits rUalState 47 44
  let s := s.portUp port false
  if s.laneUsed.contains q || left = 0 then { s with portDown := port :: s.portDown.filter (· != port) }
  else
    let s := s.setRegBits rUalState 47 44 (left - 1)
    ({ s with laneUsed := q :: s.laneUsed, retrain := port :: s.retrain.filter (· != port) }).later (.portRetrainDone port true)
/-- LANE_ERROR_THRESHOLD. -/
def execLaneErrorThreshold (port : Nat) (s : State) : Res :=
  .next (if 36 ≤ port || s.portDown.contains port || !s.regBit rUalState port then s else s.laneFails port)
/-- PORT_RETRAIN_DONE: the port comes up, or a lane has failed training. -/
def execPortRetrainDone (port : Nat) (ok : Bool) (s : State) : Res :=
  .next <|
    if !s.retrain.contains port then s
    else
      let s := { s with retrain := s.retrain.filter (· != port) }
      if ok then s.portUp port true else s.laneFails port
/-- A write to UAL_INDEX: ignored while a port is up; a valid place in a domain trains the ports (R37). -/
def State.writeUal (s : State) (v : Word) : State :=
  if s.regBits rUalState 35 0 ≠ 0 then s
  else
    let n := Word.bits v 25 16
    let i := Word.bits v 9 0
    let s := s.setReg rUalIndex (BitVec.ofNat 64 (n * 65536 + i))
    if n = 0 || 576 < n || n ≤ i then { s with retrain := [] }
    else
      let ps := (List.range 36).filter fun p => !s.portDown.contains p
      ps.foldl (fun s p => s.later (.portRetrainDone p true)) { s with retrain := ps }

end Sys2Proof.Machine
end

