-- ==== Sys2Proof/Machine/Trust.lean ====
section
/-! DEFINITION. Trust (R65 to R68): the SPDM responder of each function, IDE keys, and the TDISP interfaces. The order of
messages and the response codes are those of the SPDM standard R65 names (see the log). -/

namespace Sys2Proof.Machine

def State.spdmOf (s : State) (fn : Nat) : Spdm := Map.get .start s.spdm fn
def State.setSpdm (s : State) (fn : Nat) (x : Spdm) : State := { s with spdm := Map.set .start s.spdm fn x }
/-- PF0 and every enabled virtual function carry a mailbox; it answers once configuration requests are answered (R26). -/
def State.mailbox (s : State) (fn : Nat) : Bool := decide (fn ≤ s.vfOn) && (decide (8 ≤ s.stage) || s.bootError != 0)
def State.reply (s : State) (fn code : Nat) (args : List Nat) : State := s.send (.spdm fn code (Config.spdmBytes fn code args))
def unexpectedRequest : Nat := 0x04
def unsupportedRequest : Nat := 0x07
def invalidRequest : Nat := 0x01
def decryptError : Nat := 0x06
def State.refuse (s : State) (fn code : Nat) : State := s.send (.spdmError fn code)
/-- A message that needs a stage of the connection. -/
def State.spdmAt (s : State) (fn : Nat) (ok : Spdm → Bool) (f : State → Spdm → State) : Res :=
  .next <|
    if !s.mailbox fn then s
    else if ok (s.spdmOf fn) then f s (s.spdmOf fn) else s.refuse fn unexpectedRequest

def execGetVersion (fn : Nat) (s : State) : Res :=
  s.spdmAt fn (fun _ => true) fun s _ => (s.setSpdm fn ⟨1, false, false, 0⟩).reply fn 0x04 []
def execGetCapabilities (fn : Nat) (s : State) : Res :=
  s.spdmAt fn (fun x => x.stage == 1) fun s x => (s.setSpdm fn { x with stage := 2 }).reply fn 0x61 []
/-- A requester that selects no algorithm the device offers receives UnsupportedRequest (R65). -/
def execNegotiateAlgorithms (fn : Nat) (offered : Bool) (s : State) : Res :=
  s.spdmAt fn (fun x => x.stage == 2) fun s x =>
    if offered then (s.setSpdm fn { x with stage := 3 }).reply fn 0x63 [] else s.refuse fn unsupportedRequest
def negotiated (x : Spdm) : Bool := decide (3 ≤ x.stage)
def execGetDigests (fn : Nat) (s : State) : Res := s.spdmAt fn negotiated fun s _ => s.reply fn 0x01 []
def execGetCertificate (fn slot off len : Nat) (s : State) : Res :=
  s.spdmAt fn negotiated fun s _ => s.reply fn 0x02 [slot, off, len]
def execChallenge (fn slot : Nat) (nonce : Nat) (s : State) : Res :=
  s.spdmAt fn negotiated fun s _ => s.reply fn 0x03 [slot, nonce]
/-- Digest of a component of the running set, by its kind (R60, R66). -/
def State.component (s : State) (kind : Nat) : List Nat :=
  match (List.range 3).find? fun i => leAt s.fwHeader (16 + 64 * i) 4 == kind with
  | none => []
  | some i => ((s.fwHeader.drop (32 + 64 * i)).take 48).map (·.toNat)
/-- What a measurement index covers (R66). -/
def State.measured (s : State) (fn index : Nat) : List Nat :=
  match index with
  | 1 => [s.svnMin.toNat, Config.keyRevoked.toNat]
  | 2 => s.component 1
  | 3 => s.component 2
  | 4 => s.component 3
  | 5 => if s.committed then [(s.reg rFeatAcceptLo).toNat, (s.reg rFeatAcceptHi).toNat] else []
  | 6 =>
    if fn = 0 then []
    else
      let p := fn - 1
      let ts := s.partTenants p
      s.partClusters p :: (List.range 4).map (fun d => s.regBits (rStackSplit p d) 15 0) ++
        ts.map (fun t => (s.reg (rStackWays t)).toNat) ++ [(s.reg (rSeqRange p)).toNat] ++ ts.map fun t => (s.reg (rTenantMap t)).toNat
  | _ => []
def execGetMeasurements (fn index : Nat) (s : State) : Res :=
  s.spdmAt fn negotiated fun s _ => s.reply fn 0x60 (index :: s.measured fn index)
def execKeyExchange (fn : Nat) (nonce : Nat) (s : State) : Res :=
  s.spdmAt fn (fun x => negotiated x && !x.session) fun s x => (s.setSpdm fn { x with pending := true }).reply fn 0x64 [nonce]
def execFinish (fn : Nat) (mac : Nat) (s : State) : Res :=
  s.spdmAt fn (·.pending) fun s x =>
    if Config.spdmFinishOk fn mac then (s.setSpdm fn { x with pending := false, session := true }).reply fn 0x65 []
    else (s.setSpdm fn { x with pending := false }).refuse fn decryptError
def execHeartbeat (fn : Nat) (s : State) : Res := s.spdmAt fn (·.session) fun s _ => s.reply fn 0x68 []
def execKeyUpdate (fn : Nat) (s : State) : Res :=
  s.spdmAt fn (·.session) fun s x => (s.setSpdm fn { x with keys := x.keys + 1 }).reply fn 0x69 []
def execEndSession (fn : Nat) (s : State) : Res :=
  s.spdmAt fn (·.session) fun s x => (s.setSpdm fn { x with session := false, keys := 0 }).reply fn 0x6C []

/-- IDE_KM (R67): within a session on PF0; stream 0 is the link stream, 1 to 32 the selective ones, 33 + p UALinkSec of
port p (R33). -/
def execIdeKm (fn stream : Nat) (key : Nat) (s : State) : Res :=
  s.spdmAt fn (fun x => fn == 0 && x.session) fun s _ =>
    if 69 ≤ stream then s.refuse fn invalidRequest
    else
      let s := { s with ide := Map.put s.ide stream key }
      (if stream = 0 then s.setRegBit rHostLink 15 true else s).reply fn 0x7E [stream]

/- TDISP (R68) -/
def tdispLocked : Nat := 1
def tdispStarted : Nat := 2
def tdispRefused : Nat := 0x7F
def State.tdispAt (s : State) (vf : Nat) (ok : Nat → Bool) (f : State → State) : Res :=
  .next <|
    if vf = 0 || !s.mailbox vf then s
    else if ok (s.tdispState vf) then f s else s.send (.tdisp vf tdispRefused)
def execLockInterface (vf : Nat) (s : State) : Res :=
  s.tdispAt vf (· == 0) fun s => (s.setTdisp vf 1).send (.tdisp vf tdispLocked)
def execStartInterface (vf : Nat) (s : State) : Res :=
  s.tdispAt vf (· == 1) fun s => (s.setTdisp vf 2).send (.tdisp vf tdispStarted)
/-- STOP_INTERFACE: the partition is zeroed and scrubbed; the response, and CONFIG_UNLOCKED, follow once that is complete. Until
then the interface stays in its state, with no crews placed. -/
def execStopInterface (vf : Nat) (s : State) : Res :=
  s.tdispAt vf (· < 4) fun s =>
    let st := s.tdispState vf
    if st = 0 then s.send (.tdisp vf tdispStopped) else ((s.wipe (vf - 1)).setTdisp vf (st + 4)).finishStops
/-- TDISP_ERROR: an uncorrectable IDE integrity failure, a frozen item written, or a TLP without the bound stream. -/
def execTdispError (vf : Nat) (s : State) : Res := .next (if vf = 0 then s else s.interfaceError vf)

end Sys2Proof.Machine
end

