-- ==== Sys2Proof/Machine/HostIf.lean ====
section
/-! DEFINITION. The host interface (03_host.md): what registers read and what writes do (R4, R6, R44 to R49), the feature
word and firmware loads (R57 to R64), translation completions, page requests and invalidations (R51 to R56), and the record
windows (R69 to R71, R131, R142). -/

namespace Sys2Proof.Machine

/-- The state of a step that always goes on. -/
def State.via (s : State) (f : State → Res) : State :=
  match f s with
  | .next t => t
  | _ => s

/- When the host may access a window (R25, R26, R46) -/
/-- A virtual function answers memory requests when it is enabled and its partition is configured (R44). -/
def State.vfConfigured (s : State) (vf : Nat) : Bool :=
  decide (1 ≤ vf) && decide (vf ≤ s.vfOn) && s.partClusters (vf - 1) != 0
/-- A request to a window of a function goes on when the host interface serves it: in service, or to PF0 BAR0 in the recovery
state (R26); to a virtual function that is configured (R44), and in RUN only on its bound stream (R68). -/
def State.reach (s : State) (fn bar : Nat) (bound : Bool) (f : State → State) : State :=
  if !(s.inService || (s.bootError != 0 && fn == 0 && bar == 0)) then s
  else if fn = 0 then f s
  else if !s.vfConfigured fn then s.send (.completion fn 1 [])
  else if s.tdispState fn % 4 = 2 && !bound then (s.interfaceError fn).send (.completion fn 1 [])
  else f s

/- What a register reads (R4) -/
def State.slotWord (s : State) (i : Nat) : Word :=
  match s.lawAt i with
  | none => if i ≤ 1 then BitVec.ofNat 64 (2 ^ 62) else 0
  | some l =>
    BitVec.ofNat 64 (2 ^ 63 + (if i ≤ 1 then 2 ^ 62 else 0) + (l.tenant.getD 0) * 2 ^ 48 +
      ((l.tenant.map s.tenantPart).getD 0) * 2 ^ 40 + l.cycles % 128 * 2 ^ 16 + l.code.length % 128)
def State.liveWord (s : State) : Word :=
  let degraded : Bool := (List.range 4).any (fun d => s.dieState d != 2) || !s.fenced.isEmpty
  (s.reg rPkgLive) ||| BitVec.ofNat 64 (degraded.toNat * 256 + ((List.range 4).map fun d => s.dieState d * 4 ^ d).sum)
def pairWord (f : Nat → Nat) : Word := BitVec.ofNat 64 (((List.range 4).map fun j => f j * 2 ^ (16 * j)).sum)
/-- A PF0 BAR0 register as an 8-byte read returns it, without the effect of a read (R13 to R173). -/
def State.pfRead (s : State) (off : Nat) : Word :=
  if off = 0 then BitVec.ofNat 64 (Config.stepping.toNat * 2 ^ 32 + 0x0AC4 * 65536 + 0xCD01)
  else if off = rPkgLive then s.liveWord
  else if off = 0x18 then 0
  else if 0x40 ≤ off && off < 0x60 then pairWord (Config.xlat ((off - 0x40) / 8))
  else if 0x60 ≤ off && off < 0x80 then pairWord (Config.rload ((off - 0x60) / 8))
  else if off = 0x80 then BitVec.ofNat 64 (160 * 65536 + 24)
  else if off = rHostLink then s.reg rHostLink ||| BitVec.ofNat 64 (s.vfOn * 65536)
  else if off = 0x1010 then (if 8 ≤ s.stage then Config.featOffer.setWidth 64 else 0)
  else if off = 0x1018 || off = 0x1040 then 0
  else if 0x2010 ≤ off && off < 0x2090 then s.slotWord ((off - 0x2010) / 8)
  else if off = 0x20A0 then BitVec.ofNat 64 (4400 * 2 ^ 32 + Config.iccMax.toNat)
  else if 0x20C0 ≤ off && off < 0x20E0 then
    BitVec.ofNat 64 (((List.range 8).map fun i => (Config.vfPoint ((off - 0x20C0) / 8) i).toNat * 256 ^ i).sum)
  else if 0x2100 ≤ off && off < 0x2200 then
    (s.reg (rLawCode 0 ((off - 0x2100) / 4 + 1))).extractLsb' 0 32 ++ (s.reg (rLawCode 0 ((off - 0x2100) / 4))).extractLsb' 0 32
  else if 0x2200 ≤ off && off < 0x2240 then
    (s.reg (rLawParam 0 ((off - 0x2200) / 4 + 1))).extractLsb' 0 32 ++ (s.reg (rLawParam 0 ((off - 0x2200) / 4))).extractLsb' 0 32
  else if off = 0x2240 then 0
  else if off = 0x2248 then s.reg (rLawStatus 0)
  else if 0x2600 ≤ off && off < 0x2700 then (Map.get 0 s.bin.events ((off - 0x2600) / 8)).setWidth 64
  else if 0x2800 ≤ off && off < 0x2C00 then
    (Map.get (0 : W32) s.bin.hints ((off - 0x2800) / 4 + 1)) ++ (Map.get (0 : W32) s.bin.hints ((off - 0x2800) / 4))
  else if 0x18000 ≤ off && off < 0x20000 && off % 128 = 0x20 then
    let n := (off - 0x18000) / 128
    BitVec.ofNat 64 ((s.planHeld n).length * 2 ^ 32 + s.planFree n)
  else if 0x24000 ≤ off && off < 0x24400 && off % 16 = 8 then 0
  else if off = 0x30018 then 0
  else if off = 0x30038 then BitVec.ofNat 64 (s.freeCount * 2 ^ 32 + (!s.tier.swap.isEmpty).toNat)
  else s.reg off
/-- A VFn BAR0 register: mirrors of its partition, its tenants' accounts, and its law interface. -/
def State.vfRead (s : State) (vf off : Nat) : Word :=
  let p := vf - 1
  if off < 0x30 then s.pfRead (rPart p off)
  else if 0x100 ≤ off && off < 0x300 then
    let t := (off - 0x100) / 8
    if s.tenantValid t && s.tenantPart t = p then s.reg (rAcctBal t) else 0
  else if 0x800 ≤ off && off < 0x900 then
    (s.reg (rLawCode vf ((off - 0x800) / 4 + 1))).extractLsb' 0 32 ++ (s.reg (rLawCode vf ((off - 0x800) / 4))).extractLsb' 0 32
  else if 0x900 ≤ off && off < 0x940 then
    (s.reg (rLawParam vf ((off - 0x900) / 4 + 1))).extractLsb' 0 32 ++ (s.reg (rLawParam vf ((off - 0x900) / 4))).extractLsb' 0 32
  else if off = 0x948 then s.reg (rLawStatus vf)
  else if off = 0x980 then (Map.get 0 s.bin.events p).setWidth 64
  else if 0x9A0 ≤ off && off < 0x9C0 then
    (Map.get (0 : W32) s.bin.hints (8 * p + (off - 0x9A0) / 4 + 1)) ++ (Map.get (0 : W32) s.bin.hints (8 * p + (off - 0x9A0) / 4))
  else if off = 0xF00 then s.reg (rVfDiscard vf)
  else 0

/- Sequence ranges and tenants (R48, R49) -/
/-- A write to SEQ_RANGE_n. -/
def State.seqRangeWrite (s : State) (n : Nat) (v : Word) : State :=
  let k := rSeqRange n
  let b := Word.bits v 15 0
  let c := Word.bits v 32 16
  if s.partFrozen n then s.frozenWrite n
  else
    let s := if v.getLsbD 63 then s.setRegBit k 63 false else s
    let inNew (i : Nat) : Bool := decide (b ≤ i) && decide (i < b + c)
    let overlaps (q : Nat) : Bool :=
      let (b', c') := s.seqRange q
      q != n && c' != 0 && c != 0 && decide (b < b' + c') && decide (b' < b + c)
    if 65536 < b + c || (List.range 32).any overlaps ||
        (s.seqsIn n seqPENDING ++ s.seqsIn n seqACTIVE).any (fun i => !inNew i) then s.setRegBit k 63 true
    else s.setRegBits k 32 0 (c * 65536 + b)
/-- SEQ_RANGE_WRITE. -/
def execSeqRangeWrite (n : Nat) (v : Word) (s : State) : Res := .next (s.served (rSeqRange n) fun s => s.seqRangeWrite n v)
/-- Whether a tenant holds a crew, a PENDING or ACTIVE sequence, a launch record, or a frame (R49). -/
def State.tenantHolds (s : State) (t : Nat) : Bool :=
  s.pilot.crews.any (fun e => e.2.tenant == some t) ||
  (s.recordsIn (seqKey 0) 128 0 65536 seqPENDING ++ s.recordsIn (seqKey 0) 128 0 65536 seqACTIVE).any
    (fun i => s.seqNum i 8 1 % 64 == t) ||
  [1, 2, 3, 4].any (fun st => !(s.launches t st).isEmpty) || !(s.framesOf t).isEmpty
/-- A write to TENANT_MAP_t. -/
def State.tenantMapWrite (s : State) (t : Nat) (v : Word) : State :=
  let k := rTenantMap t
  let was := s.tenantValid t
  let will := v.getLsbD 63
  let part := Word.bits v 36 32
  let pasid := Word.bits v 19 0
  if was && s.partFrozen (s.tenantPart t) then s.frozenWrite (s.tenantPart t)
  else if will && s.partFrozen part then s.frozenWrite part
  else
    let s := if v.getLsbD 62 then s.setRegBit k 62 false else s
    let new := BitVec.ofNat 64 (will.toNat * 2 ^ 63 + part * 2 ^ 32 + pasid) ||| (s.reg k &&& 0x4000000000000000)
    if (was && will && (part ≠ s.tenantPart t || pasid ≠ s.tenantPasid t)) || (was && !will && s.tenantHolds t) ||
        (will && (List.range 64).any fun u => u != t && s.tenantValid u && s.tenantPasid u == pasid) then s.setRegBit k 62 true
    else if was && !will then (s.unloadLaw t).setReg k new
    else s.setReg k new
/-- TENANT_MAP_WRITE. -/
def execTenantMapWrite (t : Nat) (v : Word) (s : State) : Res := .next (s.served (rTenantMap t) fun s => s.tenantMapWrite t v)

/- The feature word and firmware (R57 to R64) -/
/-- FEAT_COMMIT. -/
def execFeatCommit (v : Word) (s : State) : Res :=
  .next <| s.served rFeatCommit fun s =>
    if !v.getLsbD 0 || s.committed then s
    else
      let s := s.setReg rFeatAcceptLo (s.reg rFeatAcceptLo &&& Config.featOffer.setWidth 64)
      (s.setReg rFeatAcceptHi 0).setReg rFeatCommit 1
/-- A FW_CTL write (R62, R64). -/
def State.fwCtl (s : State) (v : Word) : State :=
  if Word.bits v 15 8 ≠ 0xF7 || v.getLsbD 0 == v.getLsbD 1 then s
  else if v.getLsbD 0 then
    (if s.fwBusy then s.setRegBits rFwStatus 15 8 8
     else (({ s with fwBusy := true }).setRegBit rFwStatus 0 true).later .fwVerifyDone)
  else
    let run := s.regBits rFwStatus 39 32
    let m := Nat.max s.svnMin.toNat run
    ({ s with svnMin := BitVec.ofNat 8 m }).setRegBits rFwStatus 47 40 m
/-- FW_GO and FW_RAISE_MIN: a FW_CTL write, which is ignored while stages run (R26). -/
def execFwGo (v : Word) (s : State) : Res := .next (s.served 0x1040 fun s => s.fwCtl v)
def execFwRaiseMin (v : Word) (s : State) : Res := .next (s.served 0x1040 fun s => s.fwCtl v)
/-- FW_VERIFY_DONE: on success in service a warm reset starts the new set; after an image failure the stages resume. -/
def execFwVerifyDone (s : State) : Res :=
  .next <|
    if !s.fwBusy then s
    else
      let r := verifySet s.svnMin.toNat s.staged
      let s := (({ s with fwBusy := false }).setRegBits rFwStatus 15 8 r).setRegBit rFwStatus 0 false
      if r ≠ 1 then s
      else if s.inService then ({ s with fwHeader := s.staged 0 512 }).warm
      else if s.bootError = 3 || s.bootError = 4 then ({ s with fwHeader := s.staged 0 512 }).setReg rBootStage 5
      else s

/- Register writes (R4, R6, R47) -/
def w1c (off : Nat) : Word :=
  if off = rPkgLive then 0x400
  else if 0x1100 ≤ off && off < 0x1200 then 0x8000000000000000
  else if 0x1200 ≤ off && off < 0x1400 then 0x4000000000000000
  else if 0x18000 ≤ off && off < 0x20000 && off % 128 = 0 then 0x4000000000000000
  else if 0x30400 ≤ off && off < 0x30800 then 0x8000000000000000
  else 0
/-- Registers with WO or RS fields ignore a 4-byte write whole (R47). -/
def wholeOnly (off : Nat) : Bool :=
  off == 0x18 || off == 0x1040 || off == 0x1030 || off == 0x2240 || off == 0x30018 ||
  (decide (0x20000 ≤ off) && decide (off < 0x22000) && off % 0x100 == 0x10) ||
  (decide (0x24000 ≤ off) && decide (off < 0x24400) && off % 16 == 8) || (decide (0x30A00 ≤ off) && decide (off < 0x30A20))
/-- A 32-bit word of law staging, ignored while BUSY (R79). -/
def State.writeLawWord (s : State) (fn i : Nat) (v : Word) : State :=
  if s.regBit (rLawStatus fn) 0 then s
  else if i < 64 then s.setReg (rLawCode fn i) (v &&& 0xFFFFFFFF)
  else s.setReg (rLawParam fn (i - 64)) (v &&& 0xFFFFFFFF)
/-- A write to PILOT_CTL: each field under its own bound (R126). -/
def State.writePilotCtl (s : State) (v : Word) : State :=
  let s := if Word.bits v 47 32 = 0 then s else s.setRegBits rPilotCtl 47 32 (Word.bits v 47 32)
  if Word.bits v 15 0 < 500 then s else s.setRegBits rPilotCtl 15 0 (Word.bits v 15 0)
def State.anyEnabled (s : State) : Bool := (List.range 32).any s.partEnabled
/-- FMAP_CMD by its operation; 0, 6 and 7 are refused (R149). -/
def State.writeFmap (s : State) (v : Word) : State :=
  match fmapOp v with
  | 1 => s.via (execFmapAssign v)
  | 2 => s.via (execFmapRelease v)
  | 3 => s.via (execFmapSwmOn v)
  | 4 => s.via (execFmapSwmOff v)
  | 5 => s.via (execFmapPeek v)
  | _ => if s.regBit rFmapStat 0 then s.fmapResult 2 else s.fmapResult 3
/-- An 8-byte write to a PF0 BAR0 register, without effect where nothing is writable. -/
def State.pfWrite (s : State) (off : Nat) (v : Word) : State :=
  let inRange (lo hi : Nat) : Bool := decide (lo ≤ off) && decide (off < hi)
  if off = rPkgLive then (if v.getLsbD 10 then s.setRegBit rPkgLive 10 false else s)
  else if off = 0x18 then s.via (execDieRetirement v)
  else if off = rUalIndex then s.writeUal v
  else if off = rFeatAcceptLo || off = rFeatAcceptHi then (if s.committed then s else s.setReg off v)
  else if off = rFeatCommit then s.via (execFeatCommit v)
  else if off = 0x1040 then s.fwCtl v
  else if inRange 0x1100 0x1200 then s.via (execSeqRangeWrite ((off - 0x1100) / 8) v)
  else if inRange 0x1200 0x1400 then s.via (execTenantMapWrite ((off - 0x1200) / 8) v)
  else if off = rRailDflt then
    let mv := Word.bits v 15 0
    (if mv < 600 || 950 < mv || mv % 5 ≠ 0 then s else s.setReg rRailDflt (BitVec.ofNat 64 mv))
  else if off = 0x2240 then s.lawCtl 0 v
  else if off = rPilotCtl then s.writePilotCtl v
  else if inRange 0x11000 0x11400 && off % 16 = 0 then
    (if 100 < Word.bits v 39 32 then s else s.setReg off (v &&& 0x000000FFFFFFFFFF))
  else if inRange 0x18000 0x20000 then s.via (execPlanWrite ((off - 0x18000) / 128) (off % 128) v)
  else if inRange 0x20000 0x22000 then s.via (execPartWrite ((off - 0x20000) / 256) (off % 256) v)
  else if inRange 0x24000 0x24400 && off % 16 = 8 then s.via (execAcctAdd ((off - 0x24000) / 16) v)
  else if inRange 0x26000 0x26400 then
    let t := (off - 0x26000) / 16
    (if !(s.savedOf t).isEmpty then s
     else s.setReg off (if off % 16 = 0 then v &&& 0x01FFFFFFFFFF0000 else v &&& 0xFFFFFFFF))
  else if off = rAcctRate then
    (if (List.range 4).any fun i => decide (16 < Word.bits v (8 * i + 7) (8 * i)) then s else s.setReg off (v &&& 0xFFFFFFFF))
  else if off = rFrameAper then (if s.anyEnabled then s else s.setReg off (v &&& 0xFFFFFF0000000001))
  else if off = rStackAper then (if s.anyEnabled then s else s.setReg off (v &&& 0xFFFFFFFF80000001))
  else if off = rFmapArg then s.setReg off v
  else if off = 0x30018 then s.writeFmap v
  else if inRange 0x30100 0x30300 then s.via (execStackWaysWrite ((off - 0x30100) / 8) v)
  else if inRange 0x30400 0x30800 then s.via (execStackSplitWrite ((off - 0x30400) / 32) ((off - 0x30400) % 32 / 8) v)
  else if inRange 0x30A00 0x30A20 then s.via (execStackWayclr ((off - 0x30A00) / 8) v)
  else s
/-- A half of a word replaced. -/
def mergeHalf (old v : Word) (high : Bool) : Word :=
  if high then (v.extractLsb' 0 32) ++ (old.extractLsb' 0 32) else (old.extractLsb' 32 32) ++ (v.extractLsb' 0 32)
/-- What a write to half of a register keeps the other half of: a STACK_WAYS register's last value that waits to be applied
(R154), else what it reads. -/
def State.written (s : State) (base : Nat) : Word :=
  if 0x30100 ≤ base && base < 0x30300 then
    (((s.tier.ways.filter fun e => e.1 == (base - 0x30100) / 8).getLast?).map (·.2)).getD (s.pfRead base)
  else s.pfRead base
/-- An aligned write of 4 or 8 bytes to PF0 BAR0. -/
def State.pfAccess (s : State) (off size : Nat) (v : Word) : State :=
  if 0x2100 ≤ off && off < 0x2240 then
    let i := (off - 0x2100) / 4
    let s := s.writeLawWord 0 i v
    if size = 8 then s.writeLawWord 0 (i + 1) (v >>> 32) else s
  else if size = 8 then s.pfWrite off v
  else
    let base := off / 8 * 8
    if wholeOnly base then s else s.pfWrite base (mergeHalf (s.written base &&& ~~~ (w1c base)) v (off % 8 == 4))
/-- A write to VFn BAR0: its law interface alone. -/
def State.vfAccess (s : State) (vf off size : Nat) (v : Word) : State :=
  if 0x800 ≤ off && off < 0x940 then
    let i := (off - 0x800) / 4
    let s := s.writeLawWord vf i v
    if size = 8 then s.writeLawWord vf (i + 1) (v >>> 32) else s
  else if off = 0x940 && size = 8 then s.lawCtl vf v
  else s
def aligned (off size : Nat) : Bool := (size == 4 || size == 8) && off % size == 0
def inStaging (off : Nat) : Bool := decide (0x1000000 ≤ off) && decide (off < 0x2000000)
/-- The 64-bit word of a BAR0 register: in the recovery state zero outside the blocks that answer (R26, R47). -/
def State.barWord (s : State) (fn off : Nat) : Word :=
  if fn = 0 then (if s.pfOpen off && decide (off < 0x40000) then s.pfRead off else 0)
  else if off < 0x1000 then s.vfRead fn off else 0
/-- HOST_DISCARD of a function: its register and its offset in BAR0 (R70). -/
def discardReg (fn : Nat) : Nat := if fn = 0 then rDiscard else rVfDiscard fn
def discardOff (fn : Nat) : Nat := if fn = 0 then rDiscard else 0xF00
/-- A read of a BAR0 register: 8 bytes or the half it names; HOST_DISCARD, in its lower half, is cleared by the read; any
other size or alignment is a Completer Abort (R4, R47, R70). -/
def State.regRead (s : State) (fn off size : Nat) : State :=
  if !aligned off size then s.send (.completion fn 2 [])
  else
    let bs := ((leBytes 8 (s.barWord fn (off / 8 * 8)).toNat).drop (off % 8)).take size
    (if off = discardOff fn then s.setReg (discardReg fn) 0 else s).send (.completion fn 0 bs)
/-- A write of a BAR0 register, under the same rule. -/
def State.regWrite (s : State) (fn off size : Nat) (v : Word) : State :=
  if !aligned off size then s.send (.completion fn 2 [])
  else if fn = 0 then (if s.pfOpen off then s.pfAccess off size v else s)
  else s.vfAccess fn off size v
/-- Bytes of a write that are enabled, with their offsets. -/
def enabledBytes (off : Nat) (bs : List (Option Byte)) : List (Nat × Byte) :=
  (bs.zipIdx).filterMap fun e => e.1.map fun b => (off + e.2, b)
/-- A write to the staging window, which takes bytes; it is ignored while BUSY is set (R64). -/
def State.stage' (s : State) (off : Nat) (bs : List (Option Byte)) : State :=
  if s.fwBusy then s
  else ((enabledBytes off bs).filter fun w => inStaging w.1).foldl (fun s w => s.putBytes (stagingKey (w.1 - 0x1000000)) [w.2]) s
/-- REGISTER_WRITE: a host write to BAR0 of a function (R46). -/
def execRegisterWrite (fn : Via) (off size : Nat) (v : Word) (s : State) : Res :=
  .next <| s.reach fn.fn 0 fn.bound fun s =>
    if fn.fn = 0 && inStaging off then s.stage' off ((leBytes (Nat.min size 8) v.toNat).map some) else s.regWrite fn.fn off size v

/- The record windows (R69 to R71, R131, R142) -/
def State.discard (s : State) (fn : Nat) : State :=
  let s := s.bump rDiscard 31 0
  if fn = 0 then s else s.bump (rVfDiscard fn) 31 0
/-- Whether a write touches the state word at `first` other than as one aligned 8-byte write of a permitted value. A wider
write that covers the word is discarded whole as well (see the log). -/
def stateWordBad (ws : List (Nat × Byte)) (first : Nat) : Bool :=
  ws.any (fun w => decide (first ≤ w.1) && decide (w.1 < first + 8)) &&
  !(ws.map (·.1) == (List.range 8).map (first + ·) && decide (leAt (ws.map (·.2)) 0 8 ≤ 1))
/-- Records of a size that a write touches. -/
def touchedRecords (size : Nat) (ws : List (Nat × Byte)) : List Nat := (ws.map fun w => w.1 / size).eraseDups
def State.putAll (s : State) (key : Nat → Nat) (ws : List (Nat × Byte)) : State :=
  ws.foldl (fun s w => s.putBytes (key w.1) [w.2]) s
def State.writeSeqBytes (s : State) (fn : Nat) (ws : List (Nat × Byte)) : State :=
  let bad (i : Nat) : Bool := s.seqState i == seqACTIVE || s.seqHold i || stateWordBad ws (128 * i)
  if (touchedRecords 128 ws).any bad then s.discard fn else s.putAll seqKey ws
/-- A write to launch records. What was read of a record's image is read again after it; a new state word is a new
candidate. -/
def State.writeLaunchBytes (s : State) (fn : Nat) (ws : List (Nat × Byte)) : State :=
  let is := touchedRecords 64 ws
  let bad (i : Nat) : Bool := s.num (launchKey (64 * i)) 8 % 16 == launchTAKEN || stateWordBad ws (64 * i)
  if is.any bad then s.discard fn
  else
    let s := s.putAll launchKey ws
    let s := s.modPilot fun p => { p with images := p.images.filter fun e => !is.any fun i => launchGate 0 i == e.1 }
    (is.filter fun i => ws.any fun w => w.1 == 64 * i).foldl (fun s i => s.dropTry (launchGate 0 i)) s
/-- Where a byte of a function's BAR2 or BAR4 lies in the table; none where nothing is mapped (R46, R47). -/
def State.recordByte (s : State) (fn bar off : Nat) : Option Nat :=
  if bar = 2 then
    (if fn = 0 then (if off < 2 ^ 23 then some off else none)
     else
      let (b, c) := s.seqRange (fn - 1)
      if off < 128 * c then some (128 * b + off) else none)
  else
    let t := off / 32768
    if bar = 4 && decide (off < 2 ^ 21) && (fn == 0 || (s.tenantValid t && s.tenantPart t + 1 == fn)) then some off else none
def State.recordWrite (s : State) (fn bar off : Nat) (bs : List (Option Byte)) : State :=
  let ws := (enabledBytes off bs).filterMap fun w => (s.recordByte fn bar w.1).map fun o => (o, w.2)
  if ws.isEmpty then s else if bar = 2 then s.writeSeqBytes fn ws else s.writeLaunchBytes fn ws
def State.recordRead (s : State) (fn bar off n : Nat) : List Byte :=
  (List.range n).map fun i => match s.recordByte fn bar (off + i) with
    | some o => BitVec.ofNat 8 (s.num (if bar = 2 then seqKey o else launchKey o) 1)
    | none => 0
/-- HOST_RECORD_WRITE. -/
def execHostRecordWrite (fn : Via) (bar off : Nat) (bytes : List (Option Byte)) (s : State) : Res :=
  .next <| s.reach fn.fn bar fn.bound fun s => s.recordWrite fn.fn bar off bytes
/-- HOST_DISCARD_READ: a read of HOST_DISCARD returns the count and clears the register it reads (R70). -/
def execHostDiscardRead (fn : DiscardRead) (s : State) : Res :=
  .next <| s.reach fn.via.fn 0 fn.via.bound fun s => s.regRead fn.via.fn (discardOff fn.via.fn + fn.off) fn.size
/-- A request of `size` bytes: a read, or a write, whose bytes are absent where their byte enable is off (R47). -/
def memReq (size : Nat) (wr : Option (List (Option Byte))) : MemReq :=
  match wr with
  | none => .read size
  | some bs => .write ((bs ++ List.replicate size none).take size)
/-- A request to a function's windows that is served. -/
def State.window (s : State) (fn bar off : Nat) (req : MemReq) : State :=
  match req with
  | .read n =>
    if bar = 0 then
      (if fn = 0 && inStaging off then
        s.send (.completion 0 0 ((List.range n).map fun i => if inStaging (off + i) then BitVec.ofNat 8 (s.num (stagingKey (off + i - 0x1000000)) 1) else 0))
       else s.regRead fn off n)
    else s.send (.completion fn 0 (s.recordRead fn bar off n))
  | .write bs =>
    if bar = 0 then
      (if fn = 0 && inStaging off then s.stage' off bs
       else if bs.all (·.isSome) then s.regWrite fn off bs.length (BitVec.ofNat 64 (leAt (bs.filterMap id) 0 8))
       else s.send (.completion fn 2 []))
    else s.recordWrite fn bar off bs
/-- VF_MEMORY_REQUEST: a read or write of a window of a virtual function, or of PF0 as function 0 (R44, R46, R47, R68). -/
def execVfMemoryRequest (vf bar off size : Nat) (wr : Option (List (Option Byte))) (bound : Bool) (s : State) : Res :=
  .next <| s.reach vf bar bound fun s => s.window vf bar off (memReq size wr)

/- Translation completions (R51 to R54) -/
/-- The requests of one page are sent again, or for the first time: one goes out when its die has a slot, and all of them
wait for it else (R52, R54). -/
def State.sendShared (s : State) (q : AtsReq) : State :=
  let full := decide (atsLimit q.owner.die ≤ s.atsCount q.owner.die)
  let set (r : AtsReq) : AtsReq :=
    if r.same q then { r with paging := false, queued := full, shares := r.id != q.id } else r
  let s' := { s with ats := s.ats.map set }
  if full then s' else s'.send (.ats q.fn q.pasid q.page)
/-- Misses beyond the limit are sent as slots free, in their order (R52). -/
def State.sendQueued (s : State) : State :=
  (s.ats.filter fun q => q.queued && !q.shares).foldl (fun s q => s.sendShared q) s
/-- The entry that a completion gives a request: what it covers and grants; one without any permission for a refusal of the
request. -/
def AtsReq.entryOf (x : AtsReq) (res : AtsResult) (final : Bool) : AtcEntry :=
  match res with
  | .translated base lg rd wr => ⟨x.owner, x.fn, x.pasid, 4096 * x.page / 2 ^ lg * 2 ^ lg, lg, base, rd, wr, final⟩
  | .unsupported => ⟨x.owner, x.fn, x.pasid, 4096 * x.page, 12, 0, false, false, final⟩
/-- A request is over. Its entry enters the requester's cache, and what waits for it in the collective die takes it; there a refusal
leaves no entry in the cache, but ends the access that asked (R51, R52, R54). -/
def State.answerAts (s : State) (x : AtsReq) (e : AtcEntry) : State :=
  let s := { s with ats := s.ats.filter (·.id != x.id) }
  match x.owner with
  | .core _ | .bulk _ => s.fillAtc e
  | .scarab _ | .pilot => (if e.final then s else s.fillAtc e).supply (· == .page x.owner x.fn x.pasid x.page x.perm) [e]
/-- A request ends in a translation fault for its requester: the access that asked takes it, by the entry of the completion, or,
after a page request, by what the cache then holds of the page (R54). -/
def State.faultAts (s : State) (x : AtsReq) (e : Option AtcEntry) : State :=
  s.answerAts x (match e with
    | some e => e
    | none => match s.atcFind x.owner x.fn x.pasid (4096 * x.page) with
      | some e => { e with final := true }
      | none => x.entryOf .unsupported true)
def sharersOf (s : State) (r : AtsReq) : List AtsReq :=
  s.ats.filter fun x => x.fn == r.fn && x.pasid == r.pasid && x.page == r.page && !x.queued
def State.usePri (s : State) (fn : Nat) (up : Bool) : State :=
  let n := Map.get 0 s.priUsed fn
  { s with priUsed := Map.set 0 s.priUsed fn (if up then n + 1 else n - 1) }
/-- ATS_COMPLETION. -/
def execAtsCompletion (id : Nat) (res : AtsResult) (s : State) : Res :=
  .next <|
    match s.ats.find? (·.id == id) with
    | none => s
    | some r =>
      if r.queued || r.paging then s
      else
        let rs := sharersOf s r
        let ids := rs.map (·.id)
        if rs.any (·.stale) then
          -- discarded and sent again (R56)
          ({ s with ats := s.ats.map fun (y : AtsReq) => if ids.contains y.id then { y with stale := false } else y }).send (.ats r.fn r.pasid r.page)
        else
          let grants (x : AtsReq) : Bool := match res with
            | .translated _ _ rd wr => x.perm.ok rd wr
            | .unsupported => false
          let s := (rs.filter grants).foldl (fun s x => s.answerAts x (x.entryOf res false)) s
          let rest := rs.filter fun x => !grants x
          let s := if rest.isEmpty then s
            else if s.priOn r.fn && s.priLeft r.fn then
              let rids := rest.map (·.id)
              (({ s with ats := s.ats.map fun (y : AtsReq) => if rids.contains y.id then { y with paging := true } else y }).usePri r.fn true).send
                (.pageRequest r.fn r.pasid r.page)
            else rest.foldl (fun s x => s.faultAts x (some (x.entryOf res true))) s
          s.sendQueued
/-- PRG_RESPONSE: on success a new ATS request is sent; otherwise the access faults (R54). -/
def execPrgResponse (id : Nat) (success : Bool) (s : State) : Res :=
  .next <|
    match s.ats.find? (·.id == id) with
    | none => s
    | some r =>
      if !r.paging then s
      else
        let rs := (sharersOf s r).filter (·.paging)
        let s := s.usePri r.fn false
        if success then s.sendShared (rs.headD r)
        else (rs.foldl (fun s x => s.faultAts x none) s).sendQueued

/- Invalidation (R55, R56) -/
/-- In-flight uses of some entries, and of a range (see the log): posted stores, held loads and atomics of the requester whose
address lies in an entry of its own, each until it performs at its home (R55). -/
def State.usesOf (s : State) (fn : Nat) (pasid : Option Nat) (base len : Nat) (es : List AtcEntry) : List (Nat × Nat) :=
  let meets (a n b k : Nat) : Bool := decide (a % 2 ^ 57 < b + k) && decide (b < a % 2 ^ 57 + n)
  let use (o : Requester) (t : Option Nat) (a n : Nat) : Bool :=
    let (f, q) := s.fnPasid t
    f == fn && (pasid.isNone || q == pasid) &&
      (meets a n base len || es.any fun e => e.owner == o && e.pasid == q && meets a n e.base (2 ^ e.lg))
  let stores := s.posted.filter fun p =>
    p.hint.isNone && use (if p.entry.isSome then .bulk (coreOf p.cx) else .core (coreOf p.cx)) p.owner p.addr.toNat p.bytes.length
  let held := (s.cores.flatMap fun k => k.2.held).filter fun h => use (.core (coreOf h.cx)) (s.ownerOf h.cx) h.addr.toNat h.n
  stores.map (fun p => (p.id, if p.acc.die = 4 then 2 else Machine.performed)) ++ held.map fun h => (h.id, Machine.performed)
/-- ATS_INVALIDATION: entries go, those that came for acts that wait among them, outstanding requests are stale, in-flight uses are
waited for. While stages run the request is ignored (R26). -/
def execAtsInvalidation (fn : Nat) (pasid : Option Nat) (base len tag : Nat) (s : State) : Res :=
  .next <| if s.bootError = 0 && s.stage < 8 then s else
    let hit (f : Nat) (q : Option Nat) (b n : Nat) : Bool :=
      f == fn && (pasid.isNone || q == pasid) && decide (b < base + len) && decide (base < b + n)
    let keep (e : AtcEntry) : Bool := !hit e.fn e.pasid e.base (2 ^ e.lg)
    let mark (r : AtsReq) : AtsReq :=
      if hit r.fn r.pasid (4096 * r.page) 4096 && !r.queued && !r.paging then { r with stale := true } else r
    let one : Inval := ⟨tag, fn, s.usesOf fn pasid base len (s.atc.filter fun e => !keep e)⟩
    let waits := s.waits.map fun w => { w with got := w.got.filter keep }
    let s := { s with atc := s.atc.filter keep, ats := s.ats.map mark, waits := waits }
    ({ s with inval := s.inval ++ [one] }).later (.invalidationCompletion tag)
/-- INVALIDATION_COMPLETION: in the order received, once every use has performed. -/
def execInvalidationCompletion (tag : Nat) (s : State) : Res :=
  .next <|
    match s.inval with
    | [] => s
    | i :: r =>
      if i.tag ≠ tag || !(s.open' i.uses).isEmpty then
        (if s.inval.any (·.tag == tag) then s.later (.invalidationCompletion tag) else s)
      else ({ s with inval := r }).send (.invalidated i.fn tag)

end Sys2Proof.Machine
end

