-- ==== Sys2Proof/Machine/Phasor.lean ====
section
/-! DEFINITION. Meanings of the phasor ops (R227 to R230, R344 to R347). -/

namespace Sys2Proof.Machine

/-- The angle of a lane's PH16, none when undefined (R227). -/
def angleOf (v : Nat) : Option Nat := if v % 2 = 1 then some (v / 2 % 32768) else none
/-- The code of an angle; an undefined one is 0 (R227). -/
def phCode : Option Nat → Nat
  | some a => a % 32768 * 2 + 1
  | none => 0
def angle2 (f : Nat → Nat → Nat) (a b : Nat) : Nat × Flags :=
  match angleOf a, angleOf b with
  | some a, some b => (phCode (some (f a b)), 0)
  | _, _ => (0, 0)
/-- The class of R346: 0 equal, 1 less, 2 greater, 3 unordered. -/
def phClass (a b : Nat) : Nat :=
  match angleOf a, angleOf b with
  | some a, some b =>
    let up := (b + 32768 - a) % 32768
    if up = 0 then 0 else if up < 16384 then 1 else if up = 16384 then 3 else 2
  | _, _ => 3

def execPhMul (g : Guard) (d a b : TileOp) (bs : BitVec 1) (x : Option TExt) (s : State) : Res :=
  s.elementwise .w g d a b bs x true (tileLat d) 32 fun a b _ => angle2 (· + ·) a b
def execPhDiv (g : Guard) (d a b : TileOp) (bs : BitVec 1) (x : Option TExt) (s : State) : Res :=
  s.elementwise .w g d a b bs x true (tileLat d) 32 fun a b _ => angle2 (fun a b => a + 32768 - b) a b
def execPhPow (g : Guard) (d a b : TileOp) (bs : BitVec 1) (x : Option TExt) (s : State) : Res :=
  s.elementwise .w g d a b bs x true (tileLat d) 32 fun a b _ =>
    (phCode ((angleOf a).map fun a => ((a : Int) * toSigned 32 b % 32768).toNat), 0)
def execPhCmp (g : Guard) (d a b : TileOp) (bs : BitVec 1) (x : Option TExt) (s : State) : Res :=
  s.elementwise .w g d a b bs x true (tileLat d) 32 fun a b _ => (phClass a b, 0)

/-- The reduced lane of R230. -/
def phSum (vs : List W32) : W32 × Flags :=
  let as := vs.filterMap fun v => angleOf v.toNat
  let n := as.length
  let x : Int := as.foldl (fun t a => t + cosTable a) 0
  let y : Int := as.foldl (fun t a => t + sinTable a) 0
  let q := (x * x + y * y).toNat
  if n = 0 || q < (4 * n) * (4 * n) then (0, 0)
  else
    let r := isqrt (16 * q) / n
    -- the nearest integer to √(16·q)/n, a tie to the even one
    let h := (2 * r + 1) * (2 * r + 1) * n * n
    let c := if h < 64 * q || (h = 64 * q && r % 2 = 1) then r + 1 else r
    (BitVec.ofNat 32 (Nat.min 65535 c * 65536 + phCode (some (atan2Code y x))), 0)
def execPhSumx (g : Guard) (d a : TileOp) (x : Option TExt) (s : State) : Res :=
  let r := s.cur.redX d a x phSum
  s.tile .w g true 5 false r.1 r.2
def execPhSumy (g : Guard) (d a : TileOp) (x : Option TExt) (s : State) : Res :=
  let r := s.cur.redY d a x phSum
  s.tile .w g true 4 false r.1 r.2

/-- Pairs of lanes (2i, 2i + 1) of each row (R345). -/
def onPairs (f : Nat → W32 → W32 → (W32 × Flags) × (W32 × Flags)) (row : List W32) : List (W32 × Flags) :=
  (List.range 32).flatMap fun i =>
    let r := f i (row.getD (2 * i) 0) (row.getD (2 * i + 1) 0)
    [r.1, r.2]
def fpLane (x : Exact) : W32 × Flags := let (c, fl) := encodeNum fp32 rne x; (BitVec.ofNat 32 c, fl)
def lanePair (x y : W32) : Exact × Exact := (decodeNum fp32 false x.toNat, decodeNum fp32 false y.toNat)
def tableNum (v : Int) : Exact := .fin (decide (v < 0)) v.natAbs 16384

/-- `ph.rot` of one pair by an angle (R229); a signalling NaN in it sets NV under an undefined angle too (R212, R344). -/
def rotPair (ang : Nat) (x y : W32) : (W32 × Flags) × (W32 × Flags) :=
  match angleOf ang with
  | none =>
    let fl : Flags := if (lanePair x y).1.isSig || (lanePair x y).2.isSig then flagNV else 0
    ((0x7FC00000, fl), (0x7FC00000, fl))
  | some a =>
    let (x, y) := lanePair x y
    let c := tableNum (cosTable a)
    let sn := tableNum (sinTable a)
    (fpLane ((x.mul c).add false (y.mul sn).negate), fpLane ((x.mul sn).add false (y.mul c)))
def execPhRot (g : Guard) (d a b : TileOp) (x : Option TExt) (s : State) : Res :=
  let c := s.cur
  let ya := rowsOf a (c.tileIndex a (ovA x))
  let yb := rowsOf b (c.tileIndex b (ovB x))
  let rs := (ya.zip yb).flatMap fun (ya, yb) =>
    onPairs (fun i u v => rotPair (c.lane (laneNo b.tile yb (2 * i))).toNat u v) (c.rowVals a ya)
  s.tile .w g true (tileLat d + 2) (isWhole d) (c.lanesD d x) (joinLanes rs)

/-- `ph.from` of one pair (R229): the angle of (x, y), and its magnitude. -/
def fromPair (u v : W32) : (W32 × Flags) × (W32 × Flags) :=
  match lanePair u v with
  | (.fin a n d, .fin b m e) =>
    if n = 0 && m = 0 then ((0, 0), (0, 0))
    else
      let x := Exact.sgn a n * (e : Int)
      let y := Exact.sgn b m * (d : Int)
      ((BitVec.ofNat 32 (phCode (some (atan2Code y x))), 0),
       fpLane (sqrtNum (n * n * e * e + m * m * d * d) (d * d * e * e)))
  | (x, y) =>
    if x.isNaN || y.isNaN then ((0, 0), (0x7FC00000, if x.isSig || y.isSig then flagNV else 0))
    else ((0, 0), (0x7F800000, 0))
def execPhFrom (g : Guard) (d a : TileOp) (x : Option TExt) (s : State) : Res :=
  let c := s.cur
  let rs := (rowsOf a (c.tileIndex a (ovA x))).flatMap fun y => onPairs (fun _ u v => fromPair u v) (c.rowVals a y)
  s.tile .w g true (tileLat d) (isWhole d) (c.lanesD d x) (joinLanes rs)
def execPhCvt (g : Guard) (d a : TileOp) (x : Option TExt) (s : State) : Res :=
  s.elementwise .w g d a a 0 x true (tileLat d) 32 fun a _ _ => (turnsToPh16 (decodeNum fp32 false a), 0)

def trigLane (table : Nat → Int) (v : Nat) : Nat × Flags :=
  match angleOf v with
  | none => (0x7FC00000, 0)
  | some a => encodeNum fp32 rne (tableNum (table a))
def execPhCos (g : Guard) (d a : TileOp) (x : Option TExt) (s : State) : Res :=
  s.elementwise .w g d a a 0 x true 8 32 fun a _ _ => trigLane cosTable a
def execPhSin (g : Guard) (d a : TileOp) (x : Option TExt) (s : State) : Res :=
  s.elementwise .w g d a a 0 x true 8 32 fun a _ _ => trigLane sinTable a

end Sys2Proof.Machine
end

