-- ==== Sys2Proof/Machine/Xpose.lean ====
section
/-! DEFINITION. Meanings of the transposer's ops (R348). -/

namespace Sys2Proof.Machine

/-- Element width in bits, and elements of a row (R348). -/
def xWidth (w : BitVec 2) : Nat := 32 / 2 ^ w.toNat
def xRow (w : BitVec 2) : Nat := 2048 / xWidth w
/-- Element at row y, position p of a tile. -/
def Ctx.xElem (c : Ctx) (t : TileOp) (w y p : Nat) : Nat :=
  let n := 32 / w
  elemBits w (p % n) (c.lane (laneNo t.tile y (p / n)))

/-- An op that gives, for each row and position of d, the row and position of a it comes from. -/
def State.transpose (s : State) (g : Guard) (d a : TileOp) (w : BitVec 2) (src : Nat → Nat → Nat × Nat) : Res :=
  let c := s.cur
  let n := 32 / xWidth w
  s.guarded g fun s => s.unless (s.unitStop .transposer) fun s =>
    let vs := (List.range 16).flatMap fun y => (List.range 64).map fun x =>
      (laneNo d.tile y x, (overElems (xWidth w) n fun e =>
        let q := src y (n * x + e)
        (c.xElem a (xWidth w) q.1 q.2, 0)).1)
    (s.occupy .transposer 4).pendAt (s.cur.tick + 8) .transposer (.lanes vs)

def execXblk (g : Guard) (d a : TileOp) (w : BitVec 2) (s : State) : Res :=
  s.transpose g d a w fun y p => (p % 16, p / 16 * 16 + y)
def execXzip (g : Guard) (d a : TileOp) (w : BitVec 2) (s : State) : Res :=
  s.transpose g d a w fun y p => (y, if p % 2 = 0 then p / 2 else xRow w / 2 + p / 2)
def execXunzip (g : Guard) (d a : TileOp) (w : BitVec 2) (s : State) : Res :=
  s.transpose g d a w fun y p => (y, if p < xRow w / 2 then 2 * p else 2 * (p - xRow w / 2) + 1)
def execXcol (g : Guard) (d a : TileOp) (w : BitVec 2) (s : State) : Res :=
  s.transpose g d a w fun y p => let k := y * xRow w + p; (k % 16, k / 16)

end Sys2Proof.Machine
end

