-- ==== Sys2Proof/Machine/Dispatch.lean ====
section
/-! DEFINITION. One arm per instruction: each calls its meaning. -/

namespace Sys2Proof.Machine

open Sys2Proof

/-- What an instruction does at a state. -/
def exec (i : Instr) (s : State) : Host.Outcome State Fault Refusal :=
  match i with
  | .br g off => Sys2Proof.Machine.execBr g off s
  | .call g off => Sys2Proof.Machine.execCall g off s
  | .jmp g j imm => Sys2Proof.Machine.execJmp g j imm s
  | .ret g => Sys2Proof.Machine.execRet g s
  | .loop g lv cr len => Sys2Proof.Machine.execLoop g lv cr len s
  | .loopp g lv cr len stages => Sys2Proof.Machine.execLoopp g lv cr len stages s
  | .brstage g off => Sys2Proof.Machine.execBrstage g off s
  | .wait g j ph => Sys2Proof.Machine.execWait g j ph s
  | .tba g tag => Sys2Proof.Machine.execTba g tag s
  | .tbw g tag => Sys2Proof.Machine.execTbw g tag s
  | .yield g => Sys2Proof.Machine.execYield g s
  | .fmt g j => Sys2Proof.Machine.execFmt g j s
  | .fmtImm g val => Sys2Proof.Machine.execFmtImm g val s
  | .fmtr g d => Sys2Proof.Machine.execFmtr g d s
  | .rsys g d num => Sys2Proof.Machine.execRsys g d num s
  | .wsys g j num => Sys2Proof.Machine.execWsys g j num s
  | .trap g code => Sys2Proof.Machine.execTrap g code s
  | .tret g => Sys2Proof.Machine.execTret g s
  | .retire g => Sys2Proof.Machine.execRetire g s
  | .qent g d => Sys2Proof.Machine.execQent g d s
  | .realign g d j imm => Sys2Proof.Machine.execRealign g d j imm s
  | .tick g d => Sys2Proof.Machine.execTick g d s
  | .time g d => Sys2Proof.Machine.execTime g d s
  | .hint g j n => Sys2Proof.Machine.execHint g j n s
  | .evt g d => Sys2Proof.Machine.execEvt g d s
  | .inject g j kind => Sys2Proof.Machine.execInject g j kind s
  | .add sl g d j k => Sys2Proof.Machine.execAdd sl g d j k s
  | .sub sl g d j k => Sys2Proof.Machine.execSub sl g d j k s
  | .mul sl g d j k => Sys2Proof.Machine.execMul sl g d j k s
  | .mulh sl g d j k => Sys2Proof.Machine.execMulh sl g d j k s
  | .mulhu sl g d j k => Sys2Proof.Machine.execMulhu sl g d j k s
  | .div sl g d j k => Sys2Proof.Machine.execDiv sl g d j k s
  | .divu sl g d j k => Sys2Proof.Machine.execDivu sl g d j k s
  | .rem sl g d j k => Sys2Proof.Machine.execRem sl g d j k s
  | .remu sl g d j k => Sys2Proof.Machine.execRemu sl g d j k s
  | .and sl g d j k => Sys2Proof.Machine.execAnd sl g d j k s
  | .or sl g d j k => Sys2Proof.Machine.execOr sl g d j k s
  | .xor sl g d j k => Sys2Proof.Machine.execXor sl g d j k s
  | .andn sl g d j k => Sys2Proof.Machine.execAndn sl g d j k s
  | .shl sl g d j k => Sys2Proof.Machine.execShl sl g d j k s
  | .shr sl g d j k => Sys2Proof.Machine.execShr sl g d j k s
  | .sar sl g d j k => Sys2Proof.Machine.execSar sl g d j k s
  | .min sl g d j k => Sys2Proof.Machine.execMin sl g d j k s
  | .max sl g d j k => Sys2Proof.Machine.execMax sl g d j k s
  | .minu sl g d j k => Sys2Proof.Machine.execMinu sl g d j k s
  | .maxu sl g d j k => Sys2Proof.Machine.execMaxu sl g d j k s
  | .clz sl g d j => Sys2Proof.Machine.execClz sl g d j s
  | .popc sl g d j => Sys2Proof.Machine.execPopc sl g d j s
  | .ext sl g d j k sgn => Sys2Proof.Machine.execExt sl g d j k sgn s
  | .lea sl g d j k sh => Sys2Proof.Machine.execLea sl g d j k sh s
  | .sel sl g d j k pn => Sys2Proof.Machine.execSel sl g d j k pn s
  | .addi sl g d j imm x => Sys2Proof.Machine.execAddi sl g d j imm x s
  | .andi sl g d j imm x => Sys2Proof.Machine.execAndi sl g d j imm x s
  | .ori sl g d j imm x => Sys2Proof.Machine.execOri sl g d j imm x s
  | .shli sl g d j n => Sys2Proof.Machine.execShli sl g d j n s
  | .shri sl g d j n => Sys2Proof.Machine.execShri sl g d j n s
  | .sari sl g d j n => Sys2Proof.Machine.execSari sl g d j n s
  | .movi sl g d imm x => Sys2Proof.Machine.execMovi sl g d imm x s
  | .movhi sl g d j imm x => Sys2Proof.Machine.execMovhi sl g d j imm x s
  | .cmp sl g pd j k cond => Sys2Proof.Machine.execCmp sl g pd j k cond s
  | .cmpi sl g pd j imm cond x => Sys2Proof.Machine.execCmpi sl g pd j imm cond x s
  | .pset sl g pd pj pk tt => Sys2Proof.Machine.execPset sl g pd pj pk tt s
  | .fadd sl g d j k => Sys2Proof.Machine.execFadd sl g d j k s
  | .fmul sl g d j k => Sys2Proof.Machine.execFmul sl g d j k s
  | .ffma sl g d j k => Sys2Proof.Machine.execFfma sl g d j k s
  | .fcvt sl g d j kind => Sys2Proof.Machine.execFcvt sl g d j kind s
  | .fcmp sl g pd j k cond => Sys2Proof.Machine.execFcmp sl g pd j k cond s
  | .ld g d j width sgn pol ord scope x => Sys2Proof.Machine.execLd g d j width sgn pol ord scope x s
  | .st g d j width pol ord scope x => Sys2Proof.Machine.execSt g d j width pol ord scope x s
  | .amo g d j k fn width pol ord scope => Sys2Proof.Machine.execAmo g d j k fn width pol ord scope s
  | .cas g d j k width pol ord scope => Sys2Proof.Machine.execCas g d j k width pol ord scope s
  | .vadd sl g d a b bs x => Sys2Proof.Machine.execVadd sl g d a b bs x s
  | .vsub sl g d a b bs x => Sys2Proof.Machine.execVsub sl g d a b bs x s
  | .vmul sl g d a b bs x => Sys2Proof.Machine.execVmul sl g d a b bs x s
  | .vfma sl g d a b bs x => Sys2Proof.Machine.execVfma sl g d a b bs x s
  | .vmax sl g d a b bs x => Sys2Proof.Machine.execVmax sl g d a b bs x s
  | .vmin sl g d a b bs x => Sys2Proof.Machine.execVmin sl g d a b bs x s
  | .vabs sl g d a x => Sys2Proof.Machine.execVabs sl g d a x s
  | .vneg sl g d a x => Sys2Proof.Machine.execVneg sl g d a x s
  | .vand sl g d a b bs x => Sys2Proof.Machine.execVand sl g d a b bs x s
  | .vor sl g d a b bs x => Sys2Proof.Machine.execVor sl g d a b bs x s
  | .vxor sl g d a b bs x => Sys2Proof.Machine.execVxor sl g d a b bs x s
  | .vshl sl g d a b bs x => Sys2Proof.Machine.execVshl sl g d a b bs x s
  | .vshr sl g d a b bs x => Sys2Proof.Machine.execVshr sl g d a b bs x s
  | .vsar sl g d a b bs x => Sys2Proof.Machine.execVsar sl g d a b bs x s
  | .vcmp sl g d a b bs x => Sys2Proof.Machine.execVcmp sl g d a b bs x s
  | .vsel sl g d a b bs x => Sys2Proof.Machine.execVsel sl g d a b bs x s
  | .vmov sl g d a x => Sys2Proof.Machine.execVmov sl g d a x s
  | .vcvt sl g d a x => Sys2Proof.Machine.execVcvt sl g d a x s
  | .vbcy sl g d a x => Sys2Proof.Machine.execVbcy sl g d a x s
  | .vbcx sl g d a x => Sys2Proof.Machine.execVbcx sl g d a x s
  | .vrolx sl g d a x => Sys2Proof.Machine.execVrolx sl g d a x s
  | .vroly sl g d a x => Sys2Proof.Machine.execVroly sl g d a x s
  | .vsumx sl g d a x => Sys2Proof.Machine.execVsumx sl g d a x s
  | .vsumy sl g d a x => Sys2Proof.Machine.execVsumy sl g d a x s
  | .vmaxx sl g d a x => Sys2Proof.Machine.execVmaxx sl g d a x s
  | .vmaxy sl g d a x => Sys2Proof.Machine.execVmaxy sl g d a x s
  | .vargx sl g d a x => Sys2Proof.Machine.execVargx sl g d a x s
  | .vscanx sl g d a x => Sys2Proof.Machine.execVscanx sl g d a x s
  | .vld sl g t j off x => Sys2Proof.Machine.execVld sl g t j off x s
  | .vldT sl g t j off tag => Sys2Proof.Machine.execVldT sl g t j off tag s
  | .vst sl g t j off x => Sys2Proof.Machine.execVst sl g t j off x s
  | .vqst sl g t j off x => Sys2Proof.Machine.execVqst sl g t j off x s
  | .vdql sl g t j off x => Sys2Proof.Machine.execVdql sl g t j off x s
  | .vdqlT sl g t j off tag => Sys2Proof.Machine.execVdqlT sl g t j off tag s
  | .viota sl g d x => Sys2Proof.Machine.execViota sl g d x s
  | .vexp2 g d a x => Sys2Proof.Machine.execVexp2 g d a x s
  | .vlog2 g d a x => Sys2Proof.Machine.execVlog2 g d a x s
  | .vrcp g d a x => Sys2Proof.Machine.execVrcp g d a x s
  | .vrsqrt g d a x => Sys2Proof.Machine.execVrsqrt g d a x s
  | .vperm g d a b x => Sys2Proof.Machine.execVperm g d a b x s
  | .phMul g d a b bs x => Sys2Proof.Machine.execPhMul g d a b bs x s
  | .phDiv g d a b bs x => Sys2Proof.Machine.execPhDiv g d a b bs x s
  | .phPow g d a b bs x => Sys2Proof.Machine.execPhPow g d a b bs x s
  | .phCmp g d a b bs x => Sys2Proof.Machine.execPhCmp g d a b bs x s
  | .phSumx g d a x => Sys2Proof.Machine.execPhSumx g d a x s
  | .phSumy g d a x => Sys2Proof.Machine.execPhSumy g d a x s
  | .phRot g d a b x => Sys2Proof.Machine.execPhRot g d a b x s
  | .phFrom g d a x => Sys2Proof.Machine.execPhFrom g d a x s
  | .phCvt g d a x => Sys2Proof.Machine.execPhCvt g d a x s
  | .phCos g d a x => Sys2Proof.Machine.execPhCos g d a x s
  | .phSin g d a x => Sys2Proof.Machine.execPhSin g d a x s
  | .xblk g d a w => Sys2Proof.Machine.execXblk g d a w s
  | .xzip g d a w => Sys2Proof.Machine.execXzip g d a w s
  | .xunzip g d a w => Sys2Proof.Machine.execXunzip g d a w s
  | .xcol g d a w => Sys2Proof.Machine.execXcol g d a w s
  | .mcall g routine imm => Sys2Proof.Machine.execMcall g routine imm s
  | .wld g imm => Sys2Proof.Machine.execWld g imm s
  | .mma g imm => Sys2Proof.Machine.execMma g imm s
  | .rot g imm => Sys2Proof.Machine.execRot g imm s
  | .drn g imm => Sys2Proof.Machine.execDrn g imm s
  | .smo g imm => Sys2Proof.Machine.execSmo g imm s
  | .zro g imm => Sys2Proof.Machine.execZro g imm s
  | .mpset g n j => Sys2Proof.Machine.execMpset g n j s
  | .mpget g n d => Sys2Proof.Machine.execMpget g n d s
  | .msnap g t d h => Sys2Proof.Machine.execMsnap g t d h s
  | .bld g j k => Sys2Proof.Machine.execBld g j k s
  | .bst g j k => Sys2Proof.Machine.execBst g j k s
  | .bmc g j k => Sys2Proof.Machine.execBmc g j k s
  | .larm g j k => Sys2Proof.Machine.execLarm g j k s
  | .larmImm g j n => Sys2Proof.Machine.execLarmImm g j n s
  | .fence g ord scope => Sys2Proof.Machine.execFence g ord scope s
  | .drain g scope => Sys2Proof.Machine.execDrain g scope s
  | .fsig g die j k => Sys2Proof.Machine.execFsig g die j k s
  | .mig g j k n deadline => Sys2Proof.Machine.execMig g j k n deadline s
  | .wbr g j k => Sys2Proof.Machine.execWbr g j k s
  | .invr g j k => Sys2Proof.Machine.execInvr g j k s
  | .coll g fn j k => Sys2Proof.Machine.execColl g fn j k s
  | .tok g j k => Sys2Proof.Machine.execTok g j k s
  | .pref g lvl j k => Sys2Proof.Machine.execPref g lvl j k s
  | .acct g d => Sys2Proof.Machine.execAcct g d s
  | .sen d id => Sys2Proof.Machine.execSen d id s
  | .hnt d sel => Sys2Proof.Machine.execHnt d sel s
  | .prm d n => Sys2Proof.Machine.execPrm d n s
  | .ldi d imm => Sys2Proof.Machine.execLdi d imm s
  | .ldh d r imm => Sys2Proof.Machine.execLdh d r imm s
  | .binAdd d r t => Sys2Proof.Machine.execBinAdd d r t s
  | .binSub d r t => Sys2Proof.Machine.execBinSub d r t s
  | .binMul d r t => Sys2Proof.Machine.execBinMul d r t s
  | .mli d r imm => Sys2Proof.Machine.execMli d r imm s
  | .binShr d r n => Sys2Proof.Machine.execBinShr d r n s
  | .binMin d r t => Sys2Proof.Machine.execBinMin d r t s
  | .binMax d r t => Sys2Proof.Machine.execBinMax d r t s
  | .clp d r t => Sys2Proof.Machine.execClp d r t s
  | .binAbs d r => Sys2Proof.Machine.execBinAbs d r s
  | .cgt r t => Sys2Proof.Machine.execCgt r t s
  | .csel d r t => Sys2Proof.Machine.execCsel d r t s
  | .ask r id => Sys2Proof.Machine.execAsk r id s
  | .sig r sel => Sys2Proof.Machine.execSig r sel s
  | .bend => Sys2Proof.Machine.execBend s
  | .coldReset => Sys2Proof.Machine.execColdReset s
  | .warmReset => Sys2Proof.Machine.execWarmReset s
  | .bootStageComplete error dies => Sys2Proof.Machine.execBootStageComplete error dies s
  | .spareCoreRemap core => Sys2Proof.Machine.execSpareCoreRemap core s
  | .sliceCopyDone die slice => Sys2Proof.Machine.execSliceCopyDone die slice s
  | .dieRetirement v => Sys2Proof.Machine.execDieRetirement v s
  | .dieRetirementDone die => Sys2Proof.Machine.execDieRetirementDone die s
  | .invalidationCompletion tag => Sys2Proof.Machine.execInvalidationCompletion tag s
  | .featCommit v => Sys2Proof.Machine.execFeatCommit v s
  | .fwGo v => Sys2Proof.Machine.execFwGo v s
  | .fwRaiseMin v => Sys2Proof.Machine.execFwRaiseMin v s
  | .fwVerifyDone => Sys2Proof.Machine.execFwVerifyDone s
  | .portRetrainDone port ok => Sys2Proof.Machine.execPortRetrainDone port ok s
  | .lawLoad fn v => Sys2Proof.Machine.execLawLoad fn v s
  | .lawUnload fn v => Sys2Proof.Machine.execLawUnload fn v s
  | .lawParamCommit fn v => Sys2Proof.Machine.execLawParamCommit fn v s
  | .frameSnapshot => Sys2Proof.Machine.execFrameSnapshot s
  | .lawSlot slot => Sys2Proof.Machine.execLawSlot slot s
  | .composition => Sys2Proof.Machine.execComposition s
  | .applyFrame => Sys2Proof.Machine.execApplyFrame s
  | .dieDroop die => Sys2Proof.Machine.execDieDroop die s
  | .droopClear die => Sys2Proof.Machine.execDroopClear die s
  | .sliceGroupPowerDown die group => Sys2Proof.Machine.execSliceGroupPowerDown die group s
  | .sliceGroupReady die group => Sys2Proof.Machine.execSliceGroupReady die group s
  | .partWrite p off v => Sys2Proof.Machine.execPartWrite p off v s
  | .partitionReset p => Sys2Proof.Machine.execPartitionReset p s
  | .acctAdd t v => Sys2Proof.Machine.execAcctAdd t v s
  | .schedPass => Sys2Proof.Machine.execSchedPass s
  | .gateWaitExpiry p => Sys2Proof.Machine.execGateWaitExpiry p s
  | .planWrite n off v => Sys2Proof.Machine.execPlanWrite n off v s
  | .mayflyPost crew seq token => Sys2Proof.Machine.execMayflyPost crew seq token s
  | .sliceEnd p => Sys2Proof.Machine.execSliceEnd p s
  | .drainDeadlineExpiry p => Sys2Proof.Machine.execDrainDeadlineExpiry p s
  | .crewSaveDone crew => Sys2Proof.Machine.execCrewSaveDone crew s
  | .switchClearingDone p => Sys2Proof.Machine.execSwitchClearingDone p s
  | .scarabSwapDone p => Sys2Proof.Machine.execScarabSwapDone p s
  | .frameFetchDone frame ok => Sys2Proof.Machine.execFrameFetchDone frame ok s
  | .frameEvictDone frame => Sys2Proof.Machine.execFrameEvictDone frame s
  | .frameScrubDone frame => Sys2Proof.Machine.execFrameScrubDone frame s
  | .fmapAssign v => Sys2Proof.Machine.execFmapAssign v s
  | .fmapRelease v => Sys2Proof.Machine.execFmapRelease v s
  | .fmapSwmOn v => Sys2Proof.Machine.execFmapSwmOn v s
  | .fmapSwmOff v => Sys2Proof.Machine.execFmapSwmOff v s
  | .fmapPeek v => Sys2Proof.Machine.execFmapPeek v s
  | .fmapCommandDone => Sys2Proof.Machine.execFmapCommandDone s
  | .stackWaysWrite t v => Sys2Proof.Machine.execStackWaysWrite t v s
  | .wayMaskApplied t => Sys2Proof.Machine.execWayMaskApplied t s
  | .stackSplitWrite p die v => Sys2Proof.Machine.execStackSplitWrite p die v s
  | .stackWayclr die v => Sys2Proof.Machine.execStackWayclr die v s
  | .parkResume cx => Sys2Proof.Machine.execParkResume cx s
  | .resultLand cx => Sys2Proof.Machine.execResultLand cx s
  | .freezeEnd core => Sys2Proof.Machine.execFreezeEnd core s
  | .loadDataReturn cx id => Sys2Proof.Machine.execLoadDataReturn cx id s
  | .drainComplete cx => Sys2Proof.Machine.execDrainComplete cx s
  | .turnLimitExpiry cx => Sys2Proof.Machine.execTurnLimitExpiry cx s
  | .unblock cx => Sys2Proof.Machine.execUnblock cx s
  | .watchdogExpiry cx => Sys2Proof.Machine.execWatchdogExpiry cx s
  | .asyncEventEntry cx => Sys2Proof.Machine.execAsyncEventEntry cx s
  | .barrierRelease crew => Sys2Proof.Machine.execBarrierRelease crew s
  | .realignResume cx => Sys2Proof.Machine.execRealignResume cx s
  | .landingArrival core id => Sys2Proof.Machine.execLandingArrival core id s
  | .engineCommandComplete core id => Sys2Proof.Machine.execEngineCommandComplete core id s
  | .postedStorePerform id => Sys2Proof.Machine.execPostedStorePerform id s
  | .fsigToken core id => Sys2Proof.Machine.execFsigToken core id s
  | .collResult coll peers => Sys2Proof.Machine.execCollResult coll peers s
  | .memberRetireComplete cx => Sys2Proof.Machine.execMemberRetireComplete cx s
  | .crewEnd crew => Sys2Proof.Machine.execCrewEnd crew s
  | .shadowBankReady cx => Sys2Proof.Machine.execShadowBankReady cx s
  | .configRequest fn req => Sys2Proof.Machine.execConfigRequest fn req s
  | .thermalTrip die => Sys2Proof.Machine.execThermalTrip die s
  | .coreFailure core => Sys2Proof.Machine.execCoreFailure core s
  | .registerWrite fn off size v => Sys2Proof.Machine.execRegisterWrite fn off size v s
  | .seqRangeWrite n v => Sys2Proof.Machine.execSeqRangeWrite n v s
  | .tenantMapWrite t v => Sys2Proof.Machine.execTenantMapWrite t v s
  | .vfMemoryRequest vf bar off size wr bound => Sys2Proof.Machine.execVfMemoryRequest vf bar off size wr bound s
  | .atsCompletion id res => Sys2Proof.Machine.execAtsCompletion id res s
  | .prgResponse id success => Sys2Proof.Machine.execPrgResponse id success s
  | .atsInvalidation fn pasid base len tag => Sys2Proof.Machine.execAtsInvalidation fn pasid base len tag s
  | .getVersion fn => Sys2Proof.Machine.execGetVersion fn s
  | .getCapabilities fn => Sys2Proof.Machine.execGetCapabilities fn s
  | .negotiateAlgorithms fn offered => Sys2Proof.Machine.execNegotiateAlgorithms fn offered s
  | .getDigests fn => Sys2Proof.Machine.execGetDigests fn s
  | .getCertificate fn slot off len => Sys2Proof.Machine.execGetCertificate fn slot off len s
  | .challenge fn slot nonce => Sys2Proof.Machine.execChallenge fn slot nonce s
  | .getMeasurements fn index => Sys2Proof.Machine.execGetMeasurements fn index s
  | .keyExchange fn nonce => Sys2Proof.Machine.execKeyExchange fn nonce s
  | .finish fn mac => Sys2Proof.Machine.execFinish fn mac s
  | .heartbeat fn => Sys2Proof.Machine.execHeartbeat fn s
  | .keyUpdate fn => Sys2Proof.Machine.execKeyUpdate fn s
  | .endSession fn => Sys2Proof.Machine.execEndSession fn s
  | .ideKm fn stream key => Sys2Proof.Machine.execIdeKm fn stream key s
  | .lockInterface vf => Sys2Proof.Machine.execLockInterface vf s
  | .startInterface vf => Sys2Proof.Machine.execStartInterface vf s
  | .stopInterface vf => Sys2Proof.Machine.execStopInterface vf s
  | .tdispError vf => Sys2Proof.Machine.execTdispError vf s
  | .hostRecordWrite fn bar off bytes => Sys2Proof.Machine.execHostRecordWrite fn bar off bytes s
  | .hostDiscardRead fn => Sys2Proof.Machine.execHostDiscardRead fn s
  | .peerRequest req => Sys2Proof.Machine.execPeerRequest req s
  | .laneErrorThreshold port => Sys2Proof.Machine.execLaneErrorThreshold port s
  | .illegalEncoding slot sub => Sys2Proof.Machine.execIllegalEncoding slot sub s

end Sys2Proof.Machine
end

