-- ==== Sys2Proof/Machine/Run.lean ====
section
/-! DEFINITION. How groups issue (R196, R203 to R206, R264, R286 to R289, R297), what a cluster-clock edge does at a core
(R179 to R184), and whose step comes next: events whose condition holds, events that are due, law words, cores with an edge,
and at last the next reference cycle (R27). -/

namespace Sys2Proof.Machine

/-- A meaning's next state goes on; a fault or a refusal stays. -/
def Res.bind (r : Res) (f : State → Res) : Res :=
  match r with
  | .next s => f s
  | .fault e => .fault e
  | .refused e => .refused e

/- The issue of a group -/
/-- The scratch of a group's issue is empty between groups. -/
def State.endIssue (s : State) : State := { s with iss := .none }
/-- A bundle of the group that issues. -/
def State.atBundle (s : State) (addr len : Nat) : State :=
  { s with iss := { s.iss with bundle := BitVec.ofNat 64 addr, after := BitVec.ofNat 64 (addr + len), stopped := none } }
def State.atSlot (s : State) (n : Nat) : State := { s with iss := { s.iss with slot := n } }

/-- What the ops of a bundle came to: they have run, with the code of a `trap` among them; one stopped; the crew of the
context ended in one; or one has no meaning. -/
inductive Ran where
  | on (s : State) (trap : Option Nat)
  | stop (st : Stop)
  | alone (n : Nat) (i : Instr)
  | out (r : Res)
/-- The ops of a bundle in ascending slot number; a `trap` is reported only when no other op faults (R205). -/
def runOps : List (Nat × Instr) → State → Option Nat → Ran
  | [], s, trap => .on s trap
  | (n, i) :: ops, s, trap =>
    match exec i (s.atSlot n) with
    | .next t =>
      match t.iss.stopped with
      | none => runOps ops t trap
      | some (.software code) => runOps ops (s.atSlot n) (some code)
      | some .gone => .alone n i
      | some st => .stop st
    | r => .out r

/-- A tick of a context passes (R184): it is charged to its tenant (R120), and a turn beside a READY context grows
(R181). -/
def Ctx.tickOn (c : Ctx) (other : Bool) : Ctx :=
  { c with
    tick := c.tick + 1
    yielded := if other then c.yielded + 1 else 0
    abClaim := c.abClaim.filter fun e => decide (c.tick < e.1)
    cbClaim := c.cbClaim.filter fun e => decide (c.tick < e.1)
    mmas := if c.snap.isSome then c.mmas else c.mmas.filter fun m => decide (c.tick < m.last) }
def State.countTick (s : State) (cx : Nat) (t : Option Nat) : State :=
  let other := s.otherReady cx
  let s := if (s.ctx cx).mode = .holding then s.modCtx cx (·.tickOn other) else s
  match t with
  | none => s
  | some t => s.charge t 1

/-- After a restore at which every member had arrived, the barrier releases once each has come to issue its first
group, be it that the group then blocks at its `tbw` (R41; see the log). -/
def State.resumedIssue (s : State) (cx : Nat) : State :=
  match (s.ctx cx).crew with
  | none => s
  | some id =>
    match s.crew? id with
    | none => s
    | some cr =>
      if !cr.resumed.contains cx then s
      else
        let left := cr.resumed.filter (· != cx)
        if left.isEmpty then
          (s.setCrew id { cr with resumed := left, release := some (s.g + cr.relDelay) }).at' (s.g + cr.relDelay) (.barrierRelease id)
        else s.setCrew id { cr with resumed := left }
/-- A fault of a `realign` target, with which nothing of its group commits (R30). -/
def Stop.wholeGroup : Stop → Bool
  | .trap t _ => t.kind == 0x04 && t.sub == 3
  | _ => false
/-- A stop of the group: a freeze or a block undoes what its earlier bundles did, since the group has not issued, and so does
a `realign` fault, which then names the group's first bundle (see the log); a park and any other fault keep it (R30, R180,
R197, R200, R203). `s0` stands at the start of the group, `s` at the start of the bundle. -/
def State.stopGroup (s0 s : State) (cx : Nat) (t : Option Nat) (st : Stop) : State :=
  match st with
  | .freeze _ => (s0.stop st).endIssue
  | .block b =>
    let s := s0.stop st
    let s := if (s.ctx cx).quiet then s else s.countTick cx t
    (match b with | .barrier _ => s.resumedIssue cx | _ => s).endIssue
  | .park _ => (s.stop st).endIssue
  | _ =>
    let s := if st.wholeGroup then { s0 with iss := { s0.iss with bundle := (s0.ctx cx).pc } } else s
    ((s.stop st).countTick cx t).endIssue

/-- How a group ends: the loop state after its end steps, where control goes, and the idle ticks (R196, R288, R289). -/
structure GroupEnd where
  ends : LoopEnd
  pc   : Word
  idle : Nat
  deriving DecidableEq, Repr
def State.groupEnd (s : State) : GroupEnd :=
  let c := s.cur
  match s.iss.transfer with
  | some t => ⟨LoopEnd.of c, t, 3⟩
  | none =>
    let e := (LoopEnd.of c).at s.iss.group
    match e.back with
    | some l => ⟨e, l.start, if l.long then 3 else 0⟩
    | none => ⟨e, s.iss.next, 0⟩
/-- The counters that the end steps changed are readable at the next tick, after every write of the group. -/
def Ctx.loopWrites (c : Ctx) (e : LoopEnd) : List Act :=
  ((List.range 6).filterMap fun n => if Map.get 0 e.lc n = c.lcr n then none else some (Act.lc n (Map.get 0 e.lc n))) ++
  (if e.ec = c.ec then [] else [Act.ec e.ec]) ++ (match e.rot with | some b => [Act.rotate b] | none => [])
def Ctx.endSteps (c : Ctx) (e : LoopEnd) : Ctx :=
  { c with
    loops := e.loops
    pend := (c.loopWrites e).foldl (fun l a => insertPend ⟨c.tick + 1, c.tick * 8 + 8, .none, a⟩ l) c.pend }
/-- What a control op asked for at the end of its group: a turn's end, retirement, or a `realign` wait. -/
def Ctx.leaveBy (c : Ctx) (l : Option Leave) : Ctx :=
  match l with
  | none => c
  | some (.realign t d) => { c with realign := some ⟨t, d⟩ }
  | some l => { c with leaving := some l }
/-- What a `drain` of the group waits for freezes the core before the next group issues (R246). -/
def State.drainOn (s : State) (cx : Nat) : State :=
  let ids := s.open' s.iss.drain
  if ids.isEmpty then s else s.modCore (coreOf cx) fun k => { k with freeze := .drain cx ids :: k.freeze }
/-- The group has issued in full: its end steps are made, control goes on, a `drain` or a `tret` of it begins to wait, and its
tick passes. A `trap` in its last bundle is then taken (R207, R246, R297). -/
def State.finishGroup (s : State) (cx : Nat) (t : Option Nat) (x : GroupEnd) (trap : Option Nat) : State :=
  let leave := s.iss.leave
  let tret := s.iss.tret
  let s := (s.drainOn cx).modCtx cx fun c =>
    let c := c.endSteps x.ends
    ({ c with
      pc := x.pc
      idle := if tret then 0 else x.idle
      rest := none
      treturn := if tret then some (c.tick + 3) else none }).leaveBy leave
  let s := ((s.resumedIssue cx).countTick cx t).endIssue
  match trap with
  | none => s
  | some code => s.deliver cx ⟨0x0D, code, 0⟩ 0 x.pc ((s.ctx cx).tick + (s.ctx cx).idle) none

/-- A back edge whose target begins no group (R266). -/
def State.backEdgeBad (s : State) (x : GroupEnd) : Bool :=
  match s.iss.transfer, x.ends.back with
  | none, some l => !s.groupStart s.iss.cx l.start
  | _, _ => false
/-- Stops that a bundle with an illegal encoding later in the group comes before (R205). -/
def yieldsToEncoding : Stop → Bool
  | .trap .. | .engine _ | .pilot .. => true
  | _ => false
/-- An op that a pending fault 0x08 falls on: the `wait` or `tbw` that blocked (R210). -/
def stalls : Instr → Bool
  | .wait .. | .tbw .. => true
  | _ => false
def State.stalled (s : State) (ops : List (Nat × Instr)) : Bool :=
  s.cur.pendFault.isSome && ops.any fun o => stalls o.2 && s.guard (guardOf o.2)

/-- The bundles of a group in order, after those before `bad`, the first with an illegal encoding. -/
def issueBundles (s0 : State) (cx : Nat) (t : Option Nat) : List Bundle → Option (Nat × Nat × Nat) → State → Res
  | [], none, s => .next s.endIssue
  | [], some (addr, n, sub), s =>
    Res.bind (execIllegalEncoding (BitVec.ofNat 8 n) (BitVec.ofNat 8 sub) (s.atBundle addr 4)) fun s =>
      .next (s.countTick cx t).endIssue
  | b :: r, bad, s =>
    let s := s.atBundle b.addr b.len
    let low := (b.ops.map (·.1)).headD 0
    if s.stalled b.ops then .next (s0.stopGroup s cx t (.trap (s.cur.pendFault.getD ⟨0x08, 1, 0⟩) 0))
    else match runOps b.ops s none with
      | .out x => x
      | .alone n i => Res.bind (exec i (s.atSlot n)) fun s => .next (s.countTick cx t).endIssue
      | .stop st => if bad.isSome && yieldsToEncoding st then issueBundles s0 cx t r bad s else .next (s0.stopGroup s cx t st)
      | .on u trap =>
        if !r.isEmpty || bad.isSome then
          match trap with
          | none => issueBundles s0 cx t r bad u
          | some code => if bad.isSome then issueBundles s0 cx t r bad u else .next (s0.stopGroup u cx t (.software code))
        else
          let x := u.groupEnd
          if u.backEdgeBad x then .next (s0.stopGroup s cx t (.trap ⟨0x01, 8, 0⟩ low))
          else .next (u.finishGroup cx t x trap)

/-- Ops that may block their group (R180, R202). -/
def mayBlock : Instr → Bool
  | .wait .. | .tbw .. | .bld .. | .bst .. | .bmc .. | .fsig .. | .mig .. | .wbr .. | .invr .. | .coll .. | .tok .. | .pref ..
  | .xblk .. | .xzip .. | .xunzip .. | .xcol .. | .wld .. | .mma .. | .rot .. | .drn .. | .smo .. | .zro .. => true
  | _ => false
def State.blocksAt (s : State) (b : Bundle) : Option BlockOn :=
  b.ops.findSome? fun (n, i) =>
    if !mayBlock i then none
    else match exec i ((s.atBundle b.addr b.len).atSlot n) with
      | .next t => (match t.iss.stopped with | some (.block x) => some x | _ => none)
      | _ => none
/-- A group blocks as a whole, before any of its bundles issues. -/
def State.blocks (s : State) (bs : List Bundle) : Option BlockOn := bs.findSome? s.blocksAt

/-- A matrix, transposer or drain-converter routine of the context is in flight, none that stands suspended (R202). -/
def Ctx.flying (c : Ctx) : Bool :=
  c.pend.any (fun p => suspendable p.fu) || c.busy.any (fun e => decide (5 ≤ e.1) && decide (c.tick < e.2) && decide (e.2 < farTick)) ||
    c.bank0.filling c.tick || c.bank1.filling c.tick
/-- Fault 0x0B (R121, R205): the crew is to be saved. The context stops at this boundary with its results latched, or, while a
routine of its own is in flight, at the first at which none is (R202). -/
def State.overdrawn (s : State) (cx : Nat) : State :=
  let s := match (s.ctx cx).crew with
    | none => s
    | some id =>
      match s.crew? id with
      | none => s
      | some cr => if cr.mode = CrewMode.saving then s else s.requestSave id cr
  if (s.ctx cx).flying then s.countTick cx (s.tenantOf cx)
  else ((s.release cx).wake cx).modCtx cx fun c => { c with halted := true }

/-- The group at the context's pc, or the rest of the one that stopped part way (R200, R264). -/
def State.issue (s : State) (cx : Nat) : Res :=
  let c := s.ctx cx
  let t := s.tenantOf cx
  if s.broke cx then .next (s.overdrawn cx)
  else
    let start := (c.rest.map (·.group)).getD c.pc
    let g := s.groupRest cx start c.pc
    let bs := g.bundles.dropWhile fun b => decide (b.addr < c.pc.toNat)
    let next := match g.bad, g.bundles.getLast? with
      | some (a, _), _ => a
      | none, some b => b.addr + b.len
      | none, none => 0
    let iss : Issue := { Issue.none with
      cx := cx, group := start, next := BitVec.ofNat 64 next,
      transfer := c.rest.bind (·.transfer), leave := c.rest.bind (·.leave),
      drain := (c.rest.map (·.drain)).getD [], tret := (c.rest.map (·.tret)).getD false }
    let s := { s with iss := iss }
    match (if c.pendFault.isSome then none else s.blocks bs) with
    | some b => .next (s.stopGroup s cx t (.block b))
    | none => issueBundles s cx t bs g.bad s

/- A core on an edge of its cluster clock -/
/-- The edges of a cluster clock of f steps fall where G·f passes a multiple of 64 (R27, R73, R94). -/
def clockEdge (g f : Nat) : Bool := decide (g * f % 64 < f)
/-- A core has an edge now: no trip, its die is LIVE, its cluster is on, its clock has an edge, and no droop suppresses it
(R12, R15, R95, R97). -/
def State.edge (s : State) (core : Nat) : Bool :=
  let c := clusterOf core
  let f := s.clk c
  !s.tripped && s.dieState (dieOfCore core) == 2 && s.gateOn c && clockEdge s.g f &&
    !(s.bin.droop.contains (dieOfCore core) && s.g * f / 64 % 4 == Config.droopPhase % 4)
/-- The holder of a core's width. -/
def State.holderOf (s : State) (core : Nat) : Option Nat := (contextsOf core).find? fun x => (s.ctx x).mode == .holding
/-- Whether a READY context goes before another: it became READY earlier, or stands nearer after the last holder (R181). -/
def State.readyBefore (s : State) (last a b : Nat) : Bool :=
  let near (x : Nat) : Nat := (x % 4 + 3 - last) % 4
  decide ((s.ctx a).since < (s.ctx b).since) || ((s.ctx a).since == (s.ctx b).since && decide (near a < near b))
/-- The selector's choice; a context that stands stopped for its save is not chosen (R116, R181). -/
def State.select (s : State) (core : Nat) : Option Nat :=
  let last := (s.core core).lastCx
  ((contextsOf core).filter fun x => (s.ctx x).mode == .ready && !(s.ctx x).halted).foldl (fun best x => match best with
    | none => some x
    | some b => if s.readyBefore last x b then some x else some b) none
/-- What a group waits for under the watchdog (R210). -/
def BlockOn.watched : BlockOn → Bool
  | .landing .. | .barrier _ => true
  | _ => false
/-- A context whose `wait` or `tbw` has blocked, be its width not given away yet (R182, R210). -/
def Ctx.watched (c : Ctx) : Bool :=
  match c.mode, c.leaving with
  | .blocked, _ => (c.blockOn.map (·.watched)).getD false
  | .holding, some (.block b) => b.watched
  | _, _ => false
/-- Every context that waits on a landing object or a barrier counts the edge (R210). -/
def State.watch (s : State) (core : Nat) : State :=
  (contextsOf core).foldl (fun s x =>
    if (s.ctx x).watched then s.modCtx x fun c => { c with wcount := c.wcount + 1 } else s) s
/-- The holder idles, waits for its `realign`, or issues (R30, R196); not while its core is frozen. -/
def State.holderOn (s : State) (cx : Nat) : Res :=
  let c := s.ctx cx
  if s.frozen (coreOf cx) || c.mode != .holding then .next s
  else if 0 < c.idle then .next ((s.modCtx cx fun c => { c with idle := c.idle - 1 }).countTick cx (s.tenantOf cx))
  else if c.realign.isSome then .next (s.countTick cx (s.tenantOf cx))
  else s.issue cx
/-- The tick of the holder: it drains, returns from its handler, or goes on (R182, R207). -/
def State.holderTick (s : State) (cx : Nat) : Res :=
  let c := s.ctx cx
  let pass := s.countTick cx (s.tenantOf cx)
  if c.leaving.isSome then .next (if c.quiet then s else pass)
  else match c.treturn with
    | some t0 => if decide (t0 ≤ c.tick) && c.quiet then ((s.returnFrom cx).landDue cx).holderOn cx else .next pass
    | none => s.holderOn cx
/-- A core's part of a reference cycle: the width is given away, or the edge acts and the core has done for this cycle. -/
def State.coreStep (s : State) (core : Nat) : Res :=
  let done (s : State) : State := { s with todo := s.todo.filter (· != core) }
  match s.holderOf core with
  | none =>
    match s.select core with
    | none => .next (done (s.watch core))
    | some cx => .next (s.modCtx cx fun c => { c with mode := .holding, yielded := 0 })
  | some cx =>
    let s := done (s.watch core)
    if !s.frozen core then s.holderTick cx
    else .next (if s.ticking core then s.countTick cx (s.tenantOf cx) else s)

/- Whose step is next -/
/-- Events at a context whose condition holds. -/
def State.ctxEvent (s : State) (cx : Nat) (c : Ctx) : Option Instr :=
  match c.mode with
  | .idle | .ready => none
  | .holding =>
    if s.landing? cx then some (.resultLand cx)
    else if s.drained cx then some (.drainComplete cx)
    else if s.eventDue cx && !s.frozen (coreOf cx) then some (.asyncEventEntry cx)
    else if s.turnOver cx then some (.turnLimitExpiry cx)
    else if s.realignOver cx && s.todo.contains (coreOf cx) then some (.realignResume cx)
    else if (decide (0 < c.bank0.ready) && decide (c.bank0.ready ≤ c.tick)) || (decide (0 < c.bank1.ready) && decide (c.bank1.ready ≤ c.tick)) then
      some (.shadowBankReady cx)
    else none
  | .blocked =>
    if s.retireOver cx then some (.memberRetireComplete cx)
    else if s.blockOver cx then some (.unblock cx)
    else if s.watchdogOver cx then some (.watchdogExpiry cx)
    else none
  | .parked => if s.parkOver cx then some (.parkResume cx) else none
/-- Events at a core whose condition holds: a cause of a freeze has cleared, or an engine command is complete. -/
def State.coreEvent (s : State) (core : Nat) (k : Core) : Option Instr :=
  if k.freeze.any (s.cleared core) then some (.freezeEnd core)
  else (k.queue.find? (s.finished core)).map fun e => .engineCommandComplete core e.id
/-- Events at a partition whose condition holds (R113, R167); one that waits comes when what it lacks does (R52). -/
def State.partEvent (s : State) (p : Nat) : Option Instr :=
  if s.preempted p then (if s.waitsFor (.event (.switchClearingDone p)) then none else some (.switchClearingDone p)) else if s.swapOver p then some (.scarabSwapDone p) else none
/-- The first event whose condition holds: contexts, cores, crews, partitions, then the frame's snapshot. -/
def State.ripe (s : State) : Option Instr :=
  match s.ctxs.findSome? fun e => s.ctxEvent e.1 e.2 with
  | some i => some i
  | none =>
  match s.cores.findSome? fun e => s.coreEvent e.1 e.2 with
  | some i => some i
  | none =>
  match s.pilot.crews.find? fun e => e.2.isOver with
  | some e => some (.crewEnd e.1)
  | none =>
  match (s.pilot.parts.map (·.1) ++ s.tier.swap.map (·.1)).findSome? s.partEvent with
  | some i => some i
  | none => if s.snapshotDue then some .frameSnapshot else none
/-- A boot stage runs: its end stands on the agenda (R25). -/
def State.bootPending (s : State) : Bool :=
  s.agenda.any fun e => match e.2 with | .bootStageComplete .. => true | _ => false
def State.bootOn (s : State) : State :=
  if 8 ≤ s.stage || s.bootError ≠ 0 || s.bootPending then s
  else
    let (e, d) := Config.bootOutcome s.fresh s.stage
    s.later (.bootStageComplete e d)
/-- Cores with a member and an edge now. -/
def State.coresDue (s : State) : List Nat :=
  ((s.ctxs.filter fun e => e.2.mode != .idle).map fun e => coreOf e.1).eraseDups.filter s.edge
/-- The frame's fixed points (R77): slots, composition and apply, each on its own cycle. -/
def frameEvents (g : Nat) : List Instr :=
  let x := g % frameG
  if x = binCycle * 2112 then [.composition]
  else if x = binCycle * 2368 then [.applyFrame]
  else if x % binCycle = 0 && 64 ≤ x / binCycle && x / binCycle < 2112 && (x / binCycle - 64) % 128 = 0 then
    [.lawSlot ((x / binCycle - 64) / 128)]
  else []
/-- The next reference cycle (R27): the cores with an edge and the frame's fixed point are due in it. -/
def State.nextCycle (s : State) : State :=
  let s := { s with g := s.g + 1 }
  let due : List (Nat × Instr) := if s.inFrame then (frameEvents s.g).map fun i => (s.g, i) else []
  { s with todo := s.coresDue, agenda := due ++ s.agenda }

/-- A law that runs, a core that has an edge to come, or the next cycle. -/
def State.pick (s : State) : State :=
  if s.bin.run.isSome then { s with mover := .law }
  else match s.todo with
    | c :: _ => { s with mover := .core c }
    | [] => { s with mover := .wait }
/-- The mover of the next step. -/
def State.resched (s : State) : State :=
  let s := s.bootOn
  match s.ripe with
  | some i => { s with mover := .event i }
  | none =>
    match s.agenda with
    | (g, i) :: r => if g ≤ s.g then { s with mover := .event i, agenda := r } else s.pick
    | [] => s.pick

/-- The next word of the law that runs (R78). -/
def State.lawStep (s : State) : Res :=
  match s.bin.run with
  | none => .next s
  | some (slot, k) =>
    match s.lawAt slot with
    | none => .next (s.modBin fun b => { b with run := none })
    | some l =>
      match (l.code.drop k).head?.bind decodeLaw with
      | none => .next (s.modBin fun b => { b with run := none })
      | some i => exec i (s.modBin fun b => { b with run := some (slot, k + 1) })

end Sys2Proof.Machine
end

