-- ==== Sys2Proof/Machine/Step.lean ====
section
/-! DEFINITION. One step of the machine, and the placing of one instruction where the next step fetches it. -/

namespace Sys2Proof.Machine

/-- One step: the mover acts, and the next mover is found. -/
def step (s : State) : Host.Outcome State Fault Refusal :=
  match s.mover with
  | .event i => Res.bind (exec i s) fun t => .next t.resched
  | .core c => Res.bind (s.coreStep c) fun t => .next t.resched
  | .law => Res.bind s.lawStep fun t => .next t.resched
  | .wait => .next s.nextCycle.resched

/-- The header of a bundle of one op, in the slot of its encoding (R258): its scalar reads take the first ports, a shared
tile read asks for a tile-port word, and the ports left over name a slot that is absent. -/
def soloHeader (e : Enc) (i : Option Instr) : Nat :=
  let n := ((i.map fun i => (scalarReads i).filter (· != 0)).getD []).length
  let other := if e.slot = 7 then 0 else 7
  let ports := ((List.range 4).map fun k => (if k < n then e.slot else other) * 2 ^ (18 + 3 * k)).sum
  2 ^ e.slot + (if e.ext.isSome then 2 ^ (8 + e.slot) else 0) + 2 ^ 16 + (if 0 < (i.map tileReads).getD 0 then 2 ^ 17 else 0) + ports
/-- The bytes of such a bundle, each word little-endian (R2, R257). -/
def soloBytes (e : Enc) (i : Option Instr) : List Byte :=
  leBytes 4 (soloHeader e i) ++ (if 0 < (i.map tileReads).getD 0 then leBytes 4 (8 + e.slot) else []) ++ leBytes 4 e.word.toNat ++
  (match e.ext with | some x => leBytes 4 x.toNat | none => [])

/-- A crew of the system with one member, in context 0 of core 0, whose text is one bundle at address 0. -/
def soloCrew (len : Nat) : Crew where
  tenant := none
  part := none
  launch := none
  plan := none
  prio := 0
  restart := false
  c := 1
  d := 1
  members := [0]
  retired := []
  image := 0
  textLen := len
  ending := none
  mode := .running
  tag := none
  phase := 0
  arrivals := []
  release := none
  owes := []
  savedCx := []
  savedQ := []
  resumed := []
  frames := []
  missed := false
  drainBy := 0
  done := 0

/-- The bundle stands at the pc of context 0, which holds the width of core 0 and is about to issue. -/
def State.withBundle (s : State) (bs : List Byte) : State :=
  let s := (s.putBytes (textKey 0 0 0) bs).putBytes (mapKey 0 0 0) [1]
  let s := s.setCrew 0 (soloCrew bs.length)
  let s := s.modCore 0 fun k => { k with freeze := [] }
  let s := s.modCtx 0 fun c =>
    { c with
      mode := .holding
      crew := some 0
      member := 0
      pc := 0
      rest := none
      idle := 0
      leaving := none
      treturn := none
      realign := none
      pendFault := none }
  { s with mover := .core 0, todo := [0] }
/-- The word stands alone in the law of slot 0, which is about to run it. -/
def State.withLaw (s : State) (w : W32) : State :=
  let l : Law := ⟨[w], [], none, [], false, 1⟩
  { s with bin := { s.bin with laws := Map.put s.bin.laws 0 l, run := some (0, 0) }, mover := .law }

/-- The instruction whose table bits are w, where the next step fetches it: a Binnacle word in a law's slot, any other in
the text of a member. -/
def State.withFetchWord (s : State) (nbits w : Nat) : State :=
  match tableEnc nbits w with
  | some e => if e.slot = 8 then s.withLaw e.word else s.withBundle (soloBytes e (decodeTableWord nbits w))
  | none =>
    let e : Enc := ⟨1, BitVec.ofNat 32 w, if nbits ≤ 32 then none else some (BitVec.ofNat 32 (w >>> 32))⟩
    s.withBundle (soloBytes e none)

end Sys2Proof.Machine
end

