-- ==== Sys2Proof/Safety.lean ====
section
/-! DEFINITION. The terms in which claims about the machine are stated: what a step leaves as it was, when a core issues a
group of one op, and the order of actors that every step keeps. -/

namespace Sys2Proof.Machine

/- Frames -/
/-- `t` is `s` but for the context that issues, of which `same` holds before and after. -/
def CurOnly (s t : State) (same : Ctx → Ctx → Prop) : Prop :=
  t = { s with ctxs := t.ctxs } ∧ (∀ x, x ≠ s.iss.cx → t.ctx x = s.ctx x) ∧ same s.cur t.cur
/-- Only pending writes differ. -/
def PendsOnly (c d : Ctx) : Prop := d = { c with pend := d.pend }
/-- Every pending write of `d` that is not one of `c` satisfies `p`. -/
def NewPends (c d : Ctx) (p : Act → Prop) : Prop := ∀ q, q ∈ d.pend → q ∈ c.pend ∨ p q.act
/-- A write of scalar register r, which is not s0. -/
def WritesS (r : SReg) (a : Act) : Prop := r ≠ 0 ∧ ∃ v, a = .sreg r.toNat v
/-- A write of predicate p, which is not p0. -/
def WritesP (p : BitVec 4) (a : Act) : Prop := p ≠ 0 ∧ ∃ b, a = .pred p.toNat b
/-- Sticky flags. -/
def WritesFlags (a : Act) : Prop := ∃ fl, a = .flags fl
/-- Lanes of tile t. -/
def WritesTile (t : TileOp) (a : Act) : Prop := ∃ vs, a = .lanes vs ∧ ∀ e ∈ vs, e.1 / 1024 = t.tile
/-- Only pending writes and unit occupancies differ. -/
def UnitsOnly (c d : Ctx) : Prop := d = { c with pend := d.pend, busy := d.busy }
/-- `t` is `s` but for the context that issues, of which `same` holds, and for n bytes of its core's AB at `a`, which an atomic of
the group has written; the group's own reads still give what stood there (R239, R316). -/
def AbAtomicOnly (s t : State) (a n : Nat) (same : Ctx → Ctx → Prop) : Prop :=
  t = { s with ctxs := t.ctxs, mem := t.mem, iss := { s.iss with abOld := t.iss.abOld } } ∧ (∀ x, x ≠ s.iss.cx → t.ctx x = s.ctx x) ∧
  same s.cur t.cur ∧ (∀ m, m < abKey (coreOf s.iss.cx) a ∨ abKey (coreOf s.iss.cx) a + n ≤ m → t.byte m = s.byte m) ∧
  ∀ b, t.abByte b = s.abByte b
/-- Only pending writes, the AB port's claims and ready ticks differ. -/
def AbOnly (c d : Ctx) : Prop := d = { c with pend := d.pend, abClaim := d.abClaim, rdy := d.rdy }

/- Results -/
/-- A write of a register: a scalar, a predicate or the window of predicates, lanes, a microcode register, a loop counter, EC, the
format register, or flags. -/
def Act.plain : Act → Bool
  | .sreg .. | .pred .. | .window _ | .rotate _ | .lanes _ | .mp .. | .lc .. | .ec _ | .fmt _ | .flags _ => true
  | _ => false
/-- The flags an action raises. -/
def Act.raised : Act → Flags
  | .flags fl => fl
  | _ => 0
/-- What an action makes of the predicates: one is set, the window p8 to p15 is written, or it turns by one place (R185, R288). -/
def Act.onPreds (a : Act) (old : Nat → Bool) (n : Nat) : Bool :=
  match a with
  | .pred m b => if n = m ∧ m ≠ 0 then b else old n
  | .window w => if 8 ≤ n then w.getLsbD (n - 8) else old n
  | .rotate b => if n = 8 then b else if 8 < n then old (n - 1) else old n
  | _ => old n
/-- The last of the values that actions in issue order write, of those a test names. -/
def lastOf {α : Type} (ps : List Pend) (f : Act → Option α) : Option α := (ps.filterMap fun p => f p.act).getLast?
/-- The last write of scalar register r among actions in issue order; s0 takes none. -/
def lastS (ps : List Pend) (r : Nat) : Option Word :=
  (ps.filterMap fun p => match p.act with
    | .sreg q v => if q = r ∧ r ≠ 0 then some v else none
    | _ => none).getLast?
/-- The last write of lane i among actions in issue order. -/
def lastLane (ps : List Pend) (i : Nat) : Option W32 :=
  ((ps.map fun p => match p.act with | .lanes vs => vs | _ => []).flatten.filterMap fun e =>
    if e.1 = i then some e.2 else none).getLast?
/-- What an op does when its guard reads true (R268). -/
def State.when (s : State) (g : Guard) (f : State → State) : State := if s.guard g then f s else s
/-- The state after an op with one scalar result (R283). -/
def State.wrote (s : State) (g : Guard) (lat : Nat) (d : SReg) (v : Word) : State := s.when g (·.writeS lat d v)
/-- The state after an op with one predicate result. -/
def State.wroteP (s : State) (g : Guard) (pd : BitVec 4) (b : Bool) : State := s.when g (·.writeP 1 pd b)
/-- The state after a floating-point op: result and flags at one latency (R187, R310). -/
def State.wroteF (s : State) (g : Guard) (lat : Nat) (d : SReg) (r : Nat × Flags) : State :=
  s.when g fun t => (t.writeS lat d (BitVec.ofNat 64 r.1)).writeFlags lat r.2
/-- The state after an op that takes a fault naming its slot (R204). -/
def State.faulted (s : State) (kind sub : Nat) (faddr : Word) : State := s.halt (.trap ⟨kind, sub, faddr⟩ s.iss.slot)

/- Accesses -/
/-- An AB access of n bytes at a passes its checks: aligned, in the window, ready when it reads, the port not full
(R189, R193, R195, R313). -/
def State.abOk (s : State) (a n : Nat) (read : Bool) : Prop :=
  a % n = 0 ∧ inWindow s.cur.winAb a n = true ∧ (read = true → s.cur.notReady a n = false) ∧
  Map.get 0 s.cur.abClaim s.cur.tick + n ≤ 512
/-- n AB bytes at a as they stand, as a number (R2). -/
def State.abValue (s : State) (a n : Nat) : Nat := s.num (abKey (coreOf s.iss.cx) a) n
/-- A pending write of register d, readable `lat` ticks from now; s0 takes none. -/
def State.gets (t s : State) (d : SReg) (lat : Nat) (v : Word) : Prop :=
  d ≠ 0 → ∃ p ∈ t.cur.pend, p.act = .sreg d.toNat v ∧ p.land = s.cur.tick + lat

/-- No stored bit of a stack, of HBM, of scratch or of a set's vectors has an error, and no way is disabled (R170, R172). -/
def State.unmarked (s : State) : Prop :=
  (∀ e ∈ s.tier.stack, e.2.mark = .clean) ∧ s.tier.hbmMark = [] ∧ s.tier.scrMark = [] ∧ s.tier.vecMark = [] ∧ s.tier.disable = []
/-- The copy of the granule of an access that a die's stack serves to an owner, in a way of the owner's mask (R153); the system
finds any owner's. -/
def State.stackCopy (s : State) (d f i : Nat) (t : Option Nat) : Option (Nat × Gran) :=
  s.tier.stack.find? fun e => keyDie e.1 == d && e.2.frame == f && e.2.idx == i &&
    (match t with | none => true | some t => e.2.owner == t && hasBit (s.wayMask t d) (keyWay e.1))
/-- Bytes of memory at a place have taken those of a store that its mask names, and no other byte of memory has changed. -/
def State.storedAt (s t : State) (key : Nat) (bs : List Byte) (mask : Nat) : Prop :=
  ∀ m, t.byte m = if key ≤ m ∧ m < key + bs.length ∧ hasBit mask (m - key) = true then bs.getD (m - key) 0 else s.byte m
/-- A task of the collective die does not wait (R52). -/
def State.untried (s : State) (k : Task) : Prop := ∀ w ∈ s.waits, w.task ≠ k

/-- Formats that a matrix routine takes (R351): MA and MB each BF16, E4M3, E5M2, BX4 or BX8. -/
def legalMul (f : W32) : Prop :=
  (fMA f = 1 ∨ fMA f = 2 ∨ fMA f = 3 ∨ fMA f = 8 ∨ fMA f = 9) ∧ (fMB f = 1 ∨ fMB f = 2 ∨ fMB f = 3 ∨ fMB f = 8 ∨ fMB f = 9)

/-- The entry of a command enqueued now: not started, and held by what the context's accesses are held by (R245, R367). -/
def State.rawEntry (s : State) (cmd : Cmd) (extra : List (Nat × Nat)) : Entry :=
  ⟨s.nextId, s.iss.cx, s.cur.crew.getD 0, cmd, 0, s.open' (s.cur.loadHold ++ s.cur.storeHold ++ extra), false, false,
    s.cur.tick, s.g, [], none, if cmd.places.isEmpty then none else some ⟨0, 0, s.acctRates⟩, 0, none⟩
/-- The entry with its charge made, or the rest of it still owing (R120). -/
def State.newEntry (s : State) (cmd : Cmd) (extra : List (Nat × Nat)) : Entry := (s.settle (s.rawEntry cmd extra) false).2
/-- What a `mig` keeps of the frames as it found them: those that are there already (R168). -/
def State.migNote (s : State) : Cmd → List MigSeen
  | .mig _ _ deadline => [⟨s.nextId, s.iss.cx, deadline, (s.tier.frames.filter (·.2.there)).map (·.1), []⟩]
  | _ => []
/-- The step has queued one command at the issuing core, for the issuing context, which becomes `d`; no other context or core,
no memory and no posted store has changed, nor any tier state but what a `mig` keeps of the frames as it found them (R168, R367). -/
def State.queues (s t : State) (cmd : Cmd) (extra : List (Nat × Nat)) (d : Ctx) : Prop :=
  let core := coreOf s.iss.cx
  t.core core = { s.core core with queue := (s.core core).queue ++ [s.newEntry cmd extra] } ∧
  (∀ c, c ≠ core → t.core c = s.core c) ∧ t.cur = d ∧ (∀ x, x ≠ s.iss.cx → t.ctx x = s.ctx x) ∧ t.mem = s.mem ∧
  t.posted = s.posted ∧ t.tier = { s.tier with migSeen := s.tier.migSeen ++ s.migNote cmd }

/-- The partial result of round r that holds indices from k·2^r on: a left half with its right half, or a left half that has no
right partner (R38). -/
def blockValue (f : List Nat → List Nat → List Nat) (vals : List (List Nat)) : Nat → Nat → List Nat
  | 0, k => vals.getD k []
  | r + 1, k =>
    if (2 * k + 1) * 2 ^ r < vals.length then f (blockValue f vals r (2 * k)) (blockValue f vals r (2 * k + 1))
    else blockValue f vals r (2 * k)

/- The issue of a group of one bundle with one op -/
/-- A core's edge: contexts that wait count it, and the core has acted in this reference cycle. -/
def State.atEdge (s : State) (core : Nat) : State :=
  { s.watch core with todo := (s.watch core).todo.filter (· != core) }
/-- The scratch of the group at the context's pc, and of its one op. -/
def State.atGroup (s : State) (cx : Nat) (b : Bundle) : State :=
  { s with iss := { Issue.none with cx := cx, group := (s.ctx cx).pc, next := BitVec.ofNat 64 (b.addr + b.len) } }
def State.atOp (s : State) (cx : Nat) (b : Bundle) (n : Nat) : State := ((s.atGroup cx b).atBundle b.addr b.len).atSlot n
/-- The step is a core's, whose width a context holds that is about to issue the op `i` alone in its group. -/
structure Issues (s : State) (core cx : Nat) (b : Bundle) (n : Nat) (i : Instr) : Prop where
  mover  : s.mover = .core core
  holder : s.holderOf core = some cx
  runs   : (s.atEdge core).frozen core = false
  plain  : ((s.atEdge core).ctx cx).leaving = none ∧ ((s.atEdge core).ctx cx).treturn = none ∧ ((s.atEdge core).ctx cx).idle = 0 ∧
           ((s.atEdge core).ctx cx).realign = none ∧ ((s.atEdge core).ctx cx).pendFault = none ∧ ((s.atEdge core).ctx cx).rest = none
  funds  : (s.atEdge core).broke cx = false
  group  : (s.atEdge core).groupAt cx ((s.atEdge core).ctx cx).pc = ⟨[b], none⟩
  addr   : b.addr = ((s.atEdge core).ctx cx).pc.toNat
  op     : b.ops = [(n, i)]

/- The order of actors -/
/-- Nothing is left to do before a core or the next cycle may act: no event's condition holds, none is due, and a boot
stage that runs has its end on the agenda. -/
def State.settled (s : State) : Prop :=
  s.ripe = none ∧ (∀ e, s.agenda.head? = some e → s.g < e.1) ∧
  (8 ≤ s.stage ∨ s.bootError ≠ 0 ∨ s.bootPending = true)
/-- A core moves, or a reference cycle passes, only in a settled state; a law's words go before both. -/
def SchedInv (s : State) : Prop :=
  match s.mover with
  | .event _ => True
  | .law => s.bin.run.isSome = true ∧ s.settled
  | .core c => s.todo.head? = some c ∧ s.bin.run = none ∧ s.settled
  | .wait => s.todo = [] ∧ s.bin.run = none ∧ s.settled

/- Tile ops -/
/-- Results of an element-wise op on lanes of d, a and b (R320, R323). -/
def Ctx.lanewise (c : Ctx) (d a b : TileOp) (bs : BitVec 1) (x : Option TExt) (w : Nat) (op : Nat → Nat → Nat → Nat × Flags) :
    List W32 × Flags :=
  joinLanes ((((c.lanes (c.lanesA a x)).zip (c.valuesB b bs x (c.lanesD d x).length)).zip (c.lanes (c.lanesD d x))).map
    fun ((p, q), r) => overElems w (32 / w) fun e => op (elemBits w e p) (elemBits w e q) (elemBits w e r))
/-- A tile ALU op has issued: occupancy, lanes and flags at one latency (R195, R319). -/
def State.tileDone (s : State) (sl : VWSlot) (occ : Bool) (lat : Nat) (ls : List Nat) (r : List W32 × Flags) : State :=
  ((if occ then s.occupy (aluOf sl) 4 else s).after lat (.lanes (ls.zip r.1))).writeFlags lat r.2

/-- Lane (y, x) is one that a tile operand with this index addresses (R272). -/
def covers (t : TileOp) (idx y x : Nat) : Bool :=
  match t.dir with
  | .whole => true
  | .row => y == idx % 16
  | .col => x == idx % 64
  | .diag => x == (y + idx) % 64
/-- Row and column of an operand that match row y and column x of d (R320, R329). -/
def rowIn (t : TileOp) (idx y : Nat) : Nat := if t.dir = .whole then y else idx % 16
def colIn (t : TileOp) (idx x : Nat) : Nat := if t.dir = .whole then x else idx % 64
/-- The last write of a lane in a list of lanes. -/
def writeOf (vs : List (Nat × W32)) (l : Nat) : Option W32 := (vs.filterMap fun e => if e.1 = l then some e.2 else none).getLast?
/-- The op writes value `v y x` to each lane (y, x) that d addresses, and no other lane, at a latency, with flags. -/
def State.givesLanes (s : State) (i : Instr) (sl : VWSlot) (g : Guard) (d : TileOp) (x : Option TExt) (lat : Nat) (occ : Bool)
    (fl : Flags) (v : Nat → Nat → W32) : Prop :=
  ∃ vs, exec i s = .next (s.when g fun u =>
      ((if occ then u.occupy (aluOf sl) 4 else u).after lat (.lanes vs)).writeFlags lat fl) ∧
    (∀ e ∈ vs, e.1 / 1024 = d.tile) ∧
    ∀ y xx, y < 16 → xx < 64 →
      writeOf vs (laneNo d.tile y xx) = if covers d (s.cur.tileIndex d (ovD x)) y xx then some (v y xx) else none
/-- A slot's tile ALU takes an op on this tick (R195, R319). -/
def State.aluFree (s : State) (sl : VWSlot) : Prop := Map.get 0 s.cur.busy (fuNum (aluOf sl)) ≤ s.cur.tick

end Sys2Proof.Machine
end

