-- ==== Sys2Proof/Certificates/Slice0/Obligations.lean ====
section
/-! DEFINITION. Statements for the provers. Each docstring says what its statement formalises; OBLIGATIONS.json names the
rules of spec/. -/

open Sys2Proof Sys2Proof.Machine

/-- Words written out in the spec decode to the instructions they stand for: R106's law and R392's first kernel. -/
def Obligations.SpecWordsDecode : Prop :=
  decodeEnc ⟨8, 0x28880258, none⟩ = some (.ldh 1 1 600) ∧ decodeEnc ⟨8, 0x09000005, none⟩ = some (.sen 2 5) ∧
  decodeEnc ⟨8, 0x21800001, none⟩ = some (.ldi 3 1) ∧ decodeEnc ⟨8, 0x78108000, none⟩ = some (.cgt 2 1) ∧
  decodeEnc ⟨8, 0x82180000, none⟩ = some (.csel 4 3 0) ∧ decodeEnc ⟨8, 0x90200001, none⟩ = some (.sig 4 1) ∧
  decodeEnc ⟨8, 0x98000000, none⟩ = some .bend ∧
  decodeEnc ⟨2, 0xC00722A0, some 0x10⟩ = some (.ld 0 7 8 2 1 1 0 0 (some 0x10)) ∧
  decodeEnc ⟨2, 0xC00722AB, some 0x10⟩ = some (.ld 0 7 8 2 1 1 1 3 (some 0x10)) ∧
  decodeEnc ⟨2, 0xC4091A60, some 4⟩ = some (.st 0 9 6 2 3 0 0 (some 4))

/-- No bit of an encoding is dropped: what a well-formed instruction encodes to decodes to it, with every operand at every
value. -/
def Obligations.DecodeOfEncode : Prop := ∀ (i : Instr) (e : Enc), i.wf = true → encode i = some e → decodeEnc e = some i

/-- Every word has one meaning: what decodes to an instruction is that instruction's own encoding, and it is well formed. -/
def Obligations.EncodeOfDecode : Prop := ∀ (i : Instr) (e : Enc), decodeEnc e = some i → i.wf = true ∧ encode i = some e

/-- Opcode 0, and the opcodes 26 to 63 of slot c, 15 to 63 of slot e and 5 to 63 of slots x and m, are refused with
subcode 1.
An op word whose opcode is listed but whose scope is the reserved 7 is refused with subcode 2: loads, stores, fences and
drains. -/
def Obligations.OpcodesRefused : Prop :=
  (∀ (slot : Nat) (w : W32) (x : Option W32), slot ≤ 7 →
    ((opcode w).toNat = 0 ∨ (slot = 0 ∧ 26 ≤ (opcode w).toNat) ∨ (slot = 1 ∧ 42 ≤ (opcode w).toNat) ∨
      (slot = 2 ∧ (42 ≤ (opcode w).toNat ∧ (opcode w).toNat < 48 ∨ 52 ≤ (opcode w).toNat)) ∨
      (slot = 3 ∧ 34 ≤ (opcode w).toNat) ∨
      (slot = 4 ∧ (34 ≤ (opcode w).toNat ∧ (opcode w).toNat < 40 ∨ 56 ≤ (opcode w).toNat)) ∨
      (slot = 5 ∧ 5 ≤ (opcode w).toNat) ∨ (slot = 6 ∧ 5 ≤ (opcode w).toNat) ∨ (slot = 7 ∧ 15 ≤ (opcode w).toNat)) →
    decodeSlot slot w x = .error 1) ∧
  (∀ (w : W32) (x : Option W32), w.extractLsb' 0 3 = 7 →
    (((opcode w).toNat = 48 ∨ (opcode w).toNat = 49) → decodeSlot 2 w x = .error 2) ∧
    (((opcode w).toNat = 5 ∨ (opcode w).toNat = 6) → decodeSlot 7 w none = .error 2))

/-- A step runs its mover's instruction: an event; the next word of the law that runs; or the op of a group of one op at a
core, which then ends its group, or stops it. -/
def Obligations.StepRunsTheMover : Prop :=
  ∀ s : State,
    (∀ i t, s.mover = .event i → exec i s = .next t → step s = .next t.resched) ∧
    (∀ slot k l w i t, s.mover = .law → s.bin.run = some (slot, k) → s.lawAt slot = some l → (l.code.drop k).head? = some w →
      decodeLaw w = some i → exec i (s.modBin fun b => { b with run := some (slot, k + 1) }) = .next t →
      step s = .next t.resched) ∧
    (∀ core cx b n i u, Issues s core cx b n i → exec i ((s.atEdge core).atOp cx b n) = .next u →
      (u.iss.stopped = none → u.backEdgeBad u.groupEnd = false →
        step s = .next (u.finishGroup cx ((s.atEdge core).tenantOf cx) u.groupEnd none).resched) ∧
      (∀ tr sl, u.iss.stopped = some (.trap tr sl) →
        step s = .next (State.stopGroup ((s.atEdge core).atGroup cx b) (((s.atEdge core).atGroup cx b).atBundle b.addr b.len) cx
          ((s.atEdge core).tenantOf cx) (.trap tr sl)).resched))

/-- Whatever the state, a step keeps the order of actors, which is the model's own (log entry 5): a core, a law or the next
reference cycle has its turn only when no event's condition holds and none is due. -/
def Obligations.SchedKept : Prop := ∀ s t : State, SchedInv s → step s = .next t → SchedInv t

/-- A cold reset leaves the values the spec states: registers at their Reset columns, G at 0, each tenant's balance at its largest,
contexts IDLE with s0 = 0, p0 = 1 and the default watchdog. The model's own choices besides: every frame ABSENT and every die OFF
(log entry 1, DESIGN CHOICE: the Reset column of PKG_LIVE says fw), memory canonical, an unlisted byte reading zero (log entry
2), and the order of actors (log entry 5). -/
def Obligations.ResetState : Prop :=
  (SchedInv State.reset) ∧
  (State.reset.g = 0 ∧ Memory.wf State.reset.mem = true ∧ State.reset.stage = 0 ∧ State.reset.tripped = false ∧
  State.reset.reg rRailDflt = 800 ∧ State.reset.reg rAcctRate = 0x06060606 ∧
  State.reset.regBits rPilotCtl 31 0 = 2000 ∧ State.reset.regBits rPilotCtl 63 32 = 10000 ∧
  (∀ t, t < 64 → State.reset.reg (rAcctBal t) = 0x7FFFFFFFFFFFFFFF ∧ State.reset.regBits (rTenSched t) 31 0 = 100000 ∧
    State.reset.regBits (rTenSched t) 63 32 = 90 ∧ State.reset.reg (rTenantMap t) = 0) ∧
  (∀ p, p < 32 → State.reset.regBits (rPartCtl p) 15 0 = 100 ∧ State.reset.regBits (rPartCtl p) 31 16 = 1000 ∧
    State.reset.partEnabled p = false) ∧
  (∀ f, State.reset.frame f = Frame.start) ∧ Frame.start.state = .absent ∧ (∀ d, State.reset.dieState d = 0) ∧
  (∀ cx, (State.reset.ctx cx).mode = .idle ∧ (State.reset.ctx cx).s 0 = 0 ∧ (State.reset.ctx cx).p 0 = true ∧
    (State.reset.ctx cx).wdog = 0x01000000))

/-- After a thermal trip no core has an edge: a reference cycle passes and leaves no core to act. -/
def Obligations.TripStopsTheClocks : Prop :=
  ∀ (s : State) (die : Nat), die < 4 →
    (∃ t, exec (.thermalTrip die) s = .next t ∧ t.tripped = true) ∧
    (s.tripped = true → s.mover = .wait → ∃ t, step s = .next t ∧ t.tripped = true ∧ t.todo = [])

/-- An op whose guard reads false performs nothing. -/
def Obligations.GuardFalsePerformsNothing : Prop :=
  ∀ (i : Instr) (s : State), s.guard (guardOf i) = false → exec i s = .next s

/-- s0 reads zero and discards writes, p0 reads true; every other register reads what it was last set to.
When results of a holding context are due and all are register writes, they land: each register, be it a scalar, a lane, a
predicate, a loop counter, EC, the format register or a microcode register, takes the write of the op issued last, the
predicates turn in their place among the writes, flags are added, every other register keeps its value, and what is not due yet
stays pending; the fault of a load is not due while a `realign` waits. -/
def Obligations.ResultsLand : Prop :=
  (∀ (c : Ctx) (r n : Nat) (v : Word) (b : Bool), r < 64 → n < 16 →
    c.s 0 = 0 ∧ c.setS 0 v = c ∧ c.p 0 = true ∧ c.setP 0 b = c ∧
    (r ≠ 0 → (c.setS r v).s r = v) ∧ (∀ q, q ≠ r → (c.setS r v).s q = c.s q) ∧
    (n ≠ 0 → (c.setP n b).p n = b) ∧ (∀ q, q < 16 → q ≠ n → (c.setP n b).p q = c.p q)) ∧
  (∀ (s : State) (cx : Nat), s.landing? cx = true → (∀ p ∈ (s.ctx cx).due, p.act.plain = true) →
    ∃ t, exec (.resultLand cx) s = .next t ∧
      (∀ r, (t.ctx cx).s r = (lastS (s.ctx cx).due r).getD ((s.ctx cx).s r)) ∧
      (∀ i, (t.ctx cx).lane i = (lastLane (s.ctx cx).due i).getD ((s.ctx cx).lane i)) ∧
      (∀ n, n < 16 → (t.ctx cx).p n = (s.ctx cx).due.foldl (fun f p => p.act.onPreds f) (s.ctx cx).p n) ∧
      (∀ n, (t.ctx cx).lcr n =
        (lastOf (s.ctx cx).due fun a => match a with | .lc m v => if m = n then some v else none | _ => none).getD ((s.ctx cx).lcr n)) ∧
      (∀ n, (t.ctx cx).mpr n =
        (lastOf (s.ctx cx).due fun a => match a with | .mp m v => if m = n then some v else none | _ => none).getD ((s.ctx cx).mpr n)) ∧
      (t.ctx cx).ec = (lastOf (s.ctx cx).due fun a => match a with | .ec v => some v | _ => none).getD (s.ctx cx).ec ∧
      (t.ctx cx).f = (lastOf (s.ctx cx).due fun a => match a with | .fmt v => some v | _ => none).getD (s.ctx cx).f ∧
      (t.ctx cx).flags = (s.ctx cx).due.foldl (fun f p => f ||| p.act.raised) (s.ctx cx).flags ∧
      (t.ctx cx).pend = (s.ctx cx).pend.filter (fun p => !(s.ctx cx).isDue p) ∧
      (∀ p, (s.ctx cx).isDue p = true ↔ p.land ≤ (s.ctx cx).tick ∧
        ¬((s.ctx cx).realign ≠ none ∧ ((∃ a sl sub, p.act = .poison a sl sub) ∨ ∃ a sl, p.act = .denied a sl))) ∧
      (∀ x, x ≠ cx → t.ctx x = s.ctx x) ∧ (∀ a, t.byte a = s.byte a))

/-- The three-register ops, with results as integers of the operands' signed or unsigned values, at their latencies.
The logic ops bit by bit, and the shifts by bits [5:0] as multiplication and division by a power of two.
The immediate ops: imm10 sign-extended, or the extension word; a 64-bit constant by `movi` and `movhi`. -/
def Obligations.IntegerOps : Prop :=
  (∀ (sl : ABSlot) (g : Guard) (d j k : SReg) (s : State),
    let a := s.s j
    let b := s.s k
    exec (.add sl g d j k) s = .next (s.wrote g 1 d (BitVec.ofInt 64 (a.toInt + b.toInt))) ∧
    exec (.sub sl g d j k) s = .next (s.wrote g 1 d (BitVec.ofInt 64 (a.toInt - b.toInt))) ∧
    exec (.mul sl g d j k) s = .next (s.wrote g 3 d (BitVec.ofInt 64 (a.toInt * b.toInt))) ∧
    exec (.mulh sl g d j k) s = .next (s.wrote g 3 d (BitVec.ofInt 64 (a.toInt * b.toInt / 2 ^ 64))) ∧
    exec (.mulhu sl g d j k) s = .next (s.wrote g 3 d (BitVec.ofNat 64 (a.toNat * b.toNat / 2 ^ 64))) ∧
    exec (.min sl g d j k) s = .next (s.wrote g 1 d (BitVec.ofInt 64 (Min.min a.toInt b.toInt))) ∧
    exec (.max sl g d j k) s = .next (s.wrote g 1 d (BitVec.ofInt 64 (Max.max a.toInt b.toInt))) ∧
    exec (.minu sl g d j k) s = .next (s.wrote g 1 d (BitVec.ofNat 64 (Min.min a.toNat b.toNat))) ∧
    exec (.maxu sl g d j k) s = .next (s.wrote g 1 d (BitVec.ofNat 64 (Max.max a.toNat b.toNat)))) ∧
  (∀ (sl : ABSlot) (g : Guard) (d j k : SReg) (s : State),
    let a := s.s j
    let b := s.s k
    let n := b.toNat % 64
    (∃ v, exec (.and sl g d j k) s = .next (s.wrote g 1 d v) ∧ ∀ i, v.getLsbD i = (a.getLsbD i && b.getLsbD i)) ∧
    (∃ v, exec (.or sl g d j k) s = .next (s.wrote g 1 d v) ∧ ∀ i, v.getLsbD i = (a.getLsbD i || b.getLsbD i)) ∧
    (∃ v, exec (.xor sl g d j k) s = .next (s.wrote g 1 d v) ∧ ∀ i, v.getLsbD i = (a.getLsbD i != b.getLsbD i)) ∧
    (∃ v, exec (.andn sl g d j k) s = .next (s.wrote g 1 d v) ∧ ∀ i, v.getLsbD i = (a.getLsbD i && !b.getLsbD i)) ∧
    exec (.shl sl g d j k) s = .next (s.wrote g 1 d (BitVec.ofNat 64 (a.toNat * 2 ^ n))) ∧
    exec (.shr sl g d j k) s = .next (s.wrote g 1 d (BitVec.ofNat 64 (a.toNat / 2 ^ n))) ∧
    exec (.sar sl g d j k) s = .next (s.wrote g 1 d (BitVec.ofInt 64 (a.toInt / 2 ^ n)))) ∧
  (∀ (sl : ABSlot) (g : Guard) (d j : SReg) (imm : BitVec 10) (n : BitVec 6) (x : Option W32) (s : State),
    let a := s.s j
    let v : Word := match x with | none => BitVec.ofInt 64 imm.toInt | some e => BitVec.ofInt 64 e.toInt
    exec (.addi sl g d j imm x) s = .next (s.wrote g 1 d (a + v)) ∧
    exec (.andi sl g d j imm x) s = .next (s.wrote g 1 d (a &&& v)) ∧
    exec (.ori sl g d j imm x) s = .next (s.wrote g 1 d (a ||| v)) ∧
    exec (.movi sl g d imm x) s = .next (s.wrote g 1 d v) ∧
    exec (.movhi sl g d j imm x) s = .next (s.wrote g 1 d (BitVec.ofNat 64 (v.toNat % 2 ^ 32 * 2 ^ 32 + a.toNat % 2 ^ 32))) ∧
    exec (.shli sl g d j n) s = .next (s.wrote g 1 d (BitVec.ofNat 64 (a.toNat * 2 ^ n.toNat))) ∧
    exec (.shri sl g d j n) s = .next (s.wrote g 1 d (BitVec.ofNat 64 (a.toNat / 2 ^ n.toNat))) ∧
    exec (.sari sl g d j n) s = .next (s.wrote g 1 d (BitVec.ofInt 64 (a.toInt / 2 ^ n.toNat))))

/-- Division and remainder: truncated quotients, the cases of a zero divisor, and of −2^63 by −1; each takes its slot's
divider for 16 ticks, within which a second faults. -/
def Obligations.Division : Prop :=
  ∀ (sl : ABSlot) (g : Guard) (d j k : SReg) (s : State),
    let a := s.s j
    let b := s.s k
    let fu := dividerOf sl
    let did (v : Word) : State := s.when g fun t => (t.occupy fu 16).writeS 18 d v
    (Map.get 0 s.cur.busy (fuNum fu) ≤ s.cur.tick →
      exec (.div sl g d j k) s = .next (did (if b = 0 then 0xFFFFFFFFFFFFFFFF else BitVec.ofInt 64 (a.toInt.tdiv b.toInt))) ∧
      exec (.rem sl g d j k) s = .next (did (if b = 0 then a else BitVec.ofInt 64 (a.toInt - b.toInt * a.toInt.tdiv b.toInt))) ∧
      exec (.divu sl g d j k) s = .next (did (if b = 0 then 0xFFFFFFFFFFFFFFFF else BitVec.ofNat 64 (a.toNat / b.toNat))) ∧
      exec (.remu sl g d j k) s = .next (did (if b = 0 then a else BitVec.ofNat 64 (a.toNat % b.toNat)))) ∧
    (s.guard g = true → s.cur.tick < Map.get 0 s.cur.busy (fuNum fu) → Map.get 0 s.cur.busy (fuNum fu) < farTick →
      ∀ i ∈ ([.div sl g d j k, .rem sl g d j k, .divu sl g d j k, .remu sl g d j k] : List Instr),
        exec i s = .next (s.faulted 0x04 2 0)) ∧
    (a = BitVec.ofInt 64 (-(2 ^ 63)) → b = BitVec.ofInt 64 (-1) →
      BitVec.ofInt 64 (a.toInt.tdiv b.toInt) = a ∧ BitVec.ofInt 64 (a.toInt - b.toInt * a.toInt.tdiv b.toInt) = 0) ∧
    dividerOf .a ≠ dividerOf .b

/-- The bit-field ops: leading zeros, ones, a field of s[j] by lo and len of s[k], `lea` and `sel`. -/
def Obligations.BitFields : Prop :=
  ∀ (sl : ABSlot) (g : Guard) (d j k : SReg) (fn : BitVec 4) (s : State),
    let a := s.s j
    let b := s.s k
    let lo := b.toNat % 64
    let len := Min.min (b.toNat / 64 % 128) 64
    let f := a.toNat / 2 ^ lo % 2 ^ len
    (∃ n, n ≤ 64 ∧ exec (.clz sl g d j) s = .next (s.wrote g 1 d (BitVec.ofNat 64 n)) ∧
      (∀ i, 64 - n ≤ i → a.getLsbD i = false) ∧ (n < 64 → a.getLsbD (63 - n) = true)) ∧
    exec (.popc sl g d j) s = .next (s.wrote g 1 d (BitVec.ofNat 64 ((List.range 64).countP a.getLsbD))) ∧
    exec (.ext sl g d j k 0) s = .next (s.wrote g 1 d (BitVec.ofNat 64 f)) ∧
    exec (.ext sl g d j k 1) s = .next (s.wrote g 1 d (if len = 0 then 0 else
      if f < 2 ^ (len - 1) then BitVec.ofNat 64 f else BitVec.ofInt 64 (f - 2 ^ len))) ∧
    exec (.lea sl g d j k fn) s = .next (s.wrote g 1 d (BitVec.ofNat 64 (a.toNat + b.toNat * 2 ^ fn.toNat))) ∧
    exec (.sel sl g d j k fn) s = .next (s.wrote g 1 d (if s.cur.p fn.toNat = true then a else b))

/-- The relations of `cmp` and `cmpi` by their codes, and the truth table of `pset`. -/
def Obligations.Comparisons : Prop :=
  ∀ (sl : ABSlot) (g : Guard) (pd pj pk tt cond : BitVec 4) (j k : SReg) (imm : BitVec 6) (x : Option W32) (s : State),
    let v : Word := match x with | none => BitVec.ofInt 64 imm.toInt | some e => BitVec.ofInt 64 e.toInt
    let rel (a b : Word) (r : Bool) : Prop :=
      (cond = 0 → (r = true ↔ a = b)) ∧ (cond = 1 → (r = true ↔ a ≠ b)) ∧
      (cond = 2 → (r = true ↔ a.toInt < b.toInt)) ∧ (cond = 3 → (r = true ↔ a.toInt ≤ b.toInt)) ∧
      (cond = 4 → (r = true ↔ b.toInt < a.toInt)) ∧ (cond = 5 → (r = true ↔ b.toInt ≤ a.toInt)) ∧
      (cond = 6 → (r = true ↔ a.toNat < b.toNat)) ∧ (cond = 7 → (r = true ↔ a.toNat ≤ b.toNat)) ∧
      (cond = 8 → (r = true ↔ b.toNat < a.toNat)) ∧ (cond = 9 → (r = true ↔ b.toNat ≤ a.toNat)) ∧
      (cond = 10 → (r = true ↔ a &&& b ≠ 0)) ∧ (cond = 11 → (r = true ↔ a &&& b = 0))
    (cond.toNat ≤ 11 →
      (∃ r, exec (.cmp sl g pd j k cond) s = .next (s.wroteP g pd r) ∧ rel (s.s j) (s.s k) r) ∧
      (∃ r, exec (.cmpi sl g pd j imm cond x) s = .next (s.wroteP g pd r) ∧ rel (s.s j) v r)) ∧
    (∃ r, exec (.pset sl g pd pj pk tt) s = .next (s.wroteP g pd r) ∧
      r = tt.getLsbD (2 * (if s.cur.p pj.toNat then 1 else 0) + (if s.cur.p pk.toNat then 1 else 0)))

/-- Scalar FP32: operands in [31:0] read under FZ, one rounding under f, flags with the result; `fcvt` by its kinds.
A finite code of a floating-point format, read exactly and rounded again in its own format, is that code, with no flag:
each format's values are exact. -/
def Obligations.ScalarFloat : Prop :=
  (∀ (sl : ABSlot) (g : Guard) (d j k : SReg) (s : State),
    let r := rndOf s.cur.f
    let rd (fm : Fmt) (n : Nat) (q : SReg) : Exact := decodeNum fm r.fz ((s.s q).toNat % 2 ^ n)
    let v := rd fp32 32
    let dn := r.rm == 3
    exec (.fadd sl g d j k) s = .next (s.wroteF g 3 d (encodeNum fp32 r ((v j).add dn (v k)))) ∧
    exec (.fmul sl g d j k) s = .next (s.wroteF g 3 d (encodeNum fp32 r ((v j).mul (v k)))) ∧
    exec (.ffma sl g d j k) s = .next (s.wroteF g 5 d (encodeNum fp32 r (((v j).mul (v k)).add dn (v d)))) ∧
    exec (.fcvt sl g d j 0) s = .next (s.wroteF g 3 d
      ((BitVec.ofInt 64 (toSigned 32 (toIntFmt 32 r (v j)).1)).toNat, (toIntFmt 32 r (v j)).2)) ∧
    exec (.fcvt sl g d j 1) s = .next (s.wroteF g 3 d (encodeNum fp32 r (.ofInt ((s.s j).extractLsb' 0 32).toInt))) ∧
    exec (.fcvt sl g d j 2) s = .next (s.wroteF g 3 d (encodeNum bf16 r (v j))) ∧
    exec (.fcvt sl g d j 3) s = .next (s.wroteF g 3 d (encodeNum fp32 r (rd bf16 16 j))) ∧
    exec (.fcvt sl g d j 4) s = .next (s.wroteF g 3 d (encodeNum e4m3 r (v j))) ∧
    exec (.fcvt sl g d j 5) s = .next (s.wroteF g 3 d (encodeNum fp32 r (rd e4m3 8 j))) ∧
    exec (.fcvt sl g d j 6) s = .next (s.wroteF g 3 d (encodeNum e5m2 r (v j))) ∧
    exec (.fcvt sl g d j 7) s = .next (s.wroteF g 3 d (encodeNum fp32 r (rd e5m2 8 j))) ∧
    (∀ (pd cond : BitVec 4), exec (.fcmp sl g pd j k cond) s = .next (s.when g fun t =>
      (t.writeP 1 pd (fcmpRel cond.toNat (v j) (v k))).writeFlags 1
        (if (v j).isSig || (v k).isSig || (2 ≤ cond.toNat && cond.toNat ≤ 5 && ((v j).isNaN || (v k).isNaN)) then flagNV else 0)))) ∧
  (∀ fm ∈ [fp32, bf16, e4m3, e5m2], ∀ (r : Rnd) (c : Nat), r.fz = false → c < 2 ^ fm.width →
    c % 2 ^ (fm.width - 1) ≤ fm.maxMag → encodeNum fm r (decodeNum fm false c) = (c, 0))

/-- What the a-slot and b-slot ops change: pending writes of the destination, and for a divide its divider's occupancy; no
register, flag, special register or byte of memory at once, and nothing of another context. -/
def Obligations.ScalarFrame : Prop :=
  ∀ (sl : ABSlot) (g : Guard) (d j k : SReg) (pd pj pk fn sn : BitVec 4) (imm : BitVec 10) (n : BitVec 6) (one : BitVec 1)
    (x : Option W32) (s t : State),
    (∀ i ∈ ([.add sl g d j k, .sub sl g d j k, .mul sl g d j k, .mulh sl g d j k, .mulhu sl g d j k, .and sl g d j k,
        .or sl g d j k, .xor sl g d j k, .andn sl g d j k, .shl sl g d j k, .shr sl g d j k, .sar sl g d j k,
        .min sl g d j k, .max sl g d j k, .minu sl g d j k, .maxu sl g d j k, .clz sl g d j, .popc sl g d j,
        .ext sl g d j k one, .lea sl g d j k fn, .sel sl g d j k fn, .addi sl g d j imm x, .andi sl g d j imm x,
        .ori sl g d j imm x, .shli sl g d j n, .shri sl g d j n, .sari sl g d j n, .movi sl g d imm x,
        .movhi sl g d j imm x] : List Instr), exec i s = .next t →
      CurOnly s t PendsOnly ∧ NewPends s.cur t.cur (WritesS d) ∧ ∀ a, t.byte a = s.byte a) ∧
    (∀ i ∈ ([.div sl g d j k, .divu sl g d j k, .rem sl g d j k, .remu sl g d j k] : List Instr), exec i s = .next t →
      s.iss.stopped = none → t.iss.stopped = none →
      CurOnly s t UnitsOnly ∧ NewPends s.cur t.cur (WritesS d) ∧ ∀ a, t.byte a = s.byte a) ∧
    (∀ i ∈ ([.fadd sl g d j k, .fmul sl g d j k, .ffma sl g d j k, .fcvt sl g d j fn] : List Instr), exec i s = .next t →
      CurOnly s t PendsOnly ∧ NewPends s.cur t.cur (fun a => WritesS d a ∨ WritesFlags a) ∧ ∀ a, t.byte a = s.byte a) ∧
    (∀ i ∈ ([.cmp sl g pd j k sn, .cmpi sl g pd j n sn x, .pset sl g pd pj pk sn] : List Instr), exec i s = .next t →
      CurOnly s t PendsOnly ∧ NewPends s.cur t.cur (WritesP pd) ∧ ∀ a, t.byte a = s.byte a) ∧
    (exec (.fcmp sl g pd j k sn) s = .next t →
      CurOnly s t PendsOnly ∧ NewPends s.cur t.cur (fun a => WritesP pd a ∨ WritesFlags a) ∧ ∀ a, t.byte a = s.byte a)

/-- Transfers: a target that is aligned and begins a group is taken at the end of the group, and `call` sets s63; any other
faults.
Loop set-up: a count of zero skips the body, any other makes the level active; a body that runs out of the text
faults.
`brstage`: the pipelined step on lc0 and EC, with its branch while the step loops back. -/
def Obligations.TransfersAndLoops : Prop :=
  (∀ (g : Guard) (off : BitVec 22) (j : SReg) (imm : BitVec 10) (s : State),
    let rel := BitVec.ofInt 64 (s.iss.bundle.toInt + off.toInt * 4)
    let reg := BitVec.ofInt 64 ((s.s j).toInt + imm.toInt * 4)
    let ok (t : Word) : Prop := t.toNat % 4 = 0 ∧ s.groupStart s.iss.cx t = true
    (ok rel → exec (.br g off) s = .next (s.when g (·.latch rel))) ∧
    (ok rel → exec (.call g off) s = .next (s.when g fun t => (t.latch rel).writeS 1 63 s.iss.next)) ∧
    (ok reg → exec (.jmp g j imm) s = .next (s.when g (·.latch reg))) ∧
    (ok (s.s 63) → exec (.ret g) s = .next (s.when g (·.latch (s.s 63)))) ∧
    (s.guard g = true → ∀ e ∈ ([(.br g off, rel), (.call g off, rel), (.jmp g j imm, reg), (.ret g, s.s 63)] : List (Instr × Word)),
      (e.2.toNat % 4 ≠ 0 → exec e.1 s = .next (s.faulted 0x05 3 e.2)) ∧
      (e.2.toNat % 4 = 0 → s.groupStart s.iss.cx e.2 = false → exec e.1 s = .next (s.faulted 0x01 8 0)))) ∧
  (∀ (g : Guard) (lv : BitVec 3) (cr : SReg) (len : BitVec 13) (stages : BitVec 4) (s : State),
    let n := lv.toNat
    let count := if cr = 0 then s.cur.lcr n else s.s cr
    let first := s.iss.next
    let level (stop : Word) (p : Bool) : Level := ⟨first, stop, p, decide (64 < len.toNat), true⟩
    (∀ stop, s.groupFrom s.iss.cx first (len.toNat - 1) = some stop →
      (count ≠ 0 →
        exec (.loop g lv cr len) s = .next (s.when g fun t => (t.setLevel n (level stop false)).after 1 (.lc n count)) ∧
        exec (.loopp g lv cr len stages) s = .next (s.when g fun t =>
          (((t.setLevel n (level stop true)).after 1 (.lc n count)).after 1 (.ec (BitVec.ofNat 64 (stages.toNat - 1)))).after 1
            (.window 1))) ∧
      (∀ skip, count = 0 → s.groupFrom s.iss.cx first len.toNat = some skip → skip.toNat % 4 = 0 →
        s.groupStart s.iss.cx skip = true →
        exec (.loop g lv cr len) s = .next (s.when g fun t => (t.setLevel n .off).latch skip) ∧
        exec (.loopp g lv cr len stages) s = .next (s.when g fun t => (t.setLevel n .off).latch skip))) ∧
    (s.guard g = true → s.groupFrom s.iss.cx first (len.toNat - 1) = none →
      exec (.loop g lv cr len) s = .next (s.faulted 0x01 8 0) ∧ exec (.loopp g lv cr len stages) s = .next (s.faulted 0x01 8 0))) ∧
  (∀ (g : Guard) (off : BitVec 22) (s : State),
    let t := BitVec.ofInt 64 (s.iss.bundle.toInt + off.toInt * 4)
    let lc := s.cur.lcr 0
    let ec := s.cur.ec
    let down (u : State) : State := if lc = 0 then u else u.after 1 (.lc 0 0)
    (1 < lc.toNat → t.toNat % 4 = 0 → s.groupStart s.iss.cx t = true →
      exec (.brstage g off) s = .next (s.when g fun u => ((u.after 1 (.lc 0 (lc - 1))).rotate true).latch t)) ∧
    (lc.toNat ≤ 1 → ec ≠ 0 → t.toNat % 4 = 0 → s.groupStart s.iss.cx t = true →
      exec (.brstage g off) s = .next (s.when g fun u => (((down u).after 1 (.ec (ec - 1))).rotate false).latch t)) ∧
    (lc.toNat ≤ 1 → ec = 0 → exec (.brstage g off) s = .next (s.when g fun u =>
      if (s.cur.level 0).active = true ∧ (s.cur.level 0).stop = s.iss.group then (down u).setLevel 0 .off else down u)) ∧
    (s.guard g = true → (1 < lc.toNat ∨ ec ≠ 0) → t.toNat % 4 ≠ 0 → exec (.brstage g off) s = .next (s.faulted 0x05 3 t)))

/-- Where a group's end leads: a latched transfer wins, with three idle ticks and no level stepped. Otherwise the levels that end
here step in ascending number, plain or pipelined, until one loops back to its start: those before it fall away, it and those
after it stay; when all fall away, control goes on.
Groups are counted by group-start bits: the k-th from w stands where k bits after w are set, itself the last of them. -/
def Obligations.GroupEnds : Prop :=
  (∀ s : State,
    let c := s.cur
    let x := s.groupEnd
    let ends (m : Nat) : Prop := (c.level m).active = true ∧ (c.level m).stop = s.iss.group
    let falls (m : Nat) : Prop := if (c.level m).piped = true then (c.lcr m).toNat ≤ 1 ∧ c.ec = 0 else c.lcr m = 1
    let off (m : Nat) : Prop := Map.get Level.off x.ends.loops m = { c.level m with active := false } ∧ Map.get 0 x.ends.lc m = 0
    let kept (m : Nat) : Prop := Map.get Level.off x.ends.loops m = c.level m ∧ Map.get 0 x.ends.lc m = c.lcr m
    (∀ t, s.iss.transfer = some t → x = ⟨LoopEnd.of c, t, 3⟩) ∧
    (s.iss.transfer = none → (∀ m, m < 6 → ¬ends m) → x = ⟨LoopEnd.of c, s.iss.next, 0⟩) ∧
    (s.iss.transfer = none → (∀ m, m < 6 → ends m → falls m) →
      x.pc = s.iss.next ∧ x.idle = 0 ∧ x.ends.ec = c.ec ∧ x.ends.rot = none ∧
      ∀ m, (m < 6 ∧ ends m → off m) ∧ (¬(m < 6 ∧ ends m) → kept m)) ∧
    (∀ n, n < 6 → s.iss.transfer = none → ends n → ¬falls n → (∀ m, m < n → ends m → falls m) →
      let l := c.level n
      let k := c.lcr n
      x.pc = l.start ∧ x.idle = (if l.long then 3 else 0) ∧ Map.get Level.off x.ends.loops n = l ∧
      (∀ m, m ≠ n → (m < n ∧ ends m → off m) ∧ (¬(m < n ∧ ends m) → kept m)) ∧
      (l.piped = false → Map.get 0 x.ends.lc n = k - 1 ∧ x.ends.ec = c.ec ∧ x.ends.rot = none) ∧
      (l.piped = true →
        (1 < k.toNat → Map.get 0 x.ends.lc n = k - 1 ∧ x.ends.ec = c.ec ∧ x.ends.rot = some true) ∧
        (k.toNat ≤ 1 → Map.get 0 x.ends.lc n = 0 ∧ x.ends.ec = c.ec - 1 ∧ x.ends.rot = some false)))) ∧
  (∀ (bit : Nat → Bool) (fuel w k v : Nat), findStart bit fuel true w k = some v →
    w ≤ v ∧ v < w + fuel ∧ (List.range' (w + 1) (v - w)).countP bit = k ∧ (k ≠ 0 → bit v = true))

/-- `wait` completes when the object is free in the phase named, else blocks its group; it checks alignment and window, and
raises a latched engine error first. The object is read as it stood before the group's own atomics (R239).
`yield` ends the turn when another context is READY. -/
def Obligations.WaitAndYield : Prop :=
  ∀ (g : Guard) (j : SReg) (ph : BitVec 1) (s : State),
    let a := (s.s j).toNat
    let w := s.landingHere a
    (s.iss.abOld = [] → w = s.landing (coreOf s.iss.cx) a) ∧
    (s.cur.engErr = none → a % 8 = 0 → inWindow s.cur.winAb a 8 = true → w.getLsbD 63 = false → w.getLsbD 62 = (ph == 1) →
      exec (.wait g j ph) s = .next s) ∧
    (s.guard g = true →
      (s.cur.engErr ≠ none → exec (.wait g j ph) s = .next (s.halt (.engine s.iss.slot))) ∧
      (s.cur.engErr = none → a % 8 ≠ 0 → exec (.wait g j ph) s = .next (s.faulted 0x05 3 (s.s j))) ∧
      (s.cur.engErr = none → a % 8 = 0 → inWindow s.cur.winAb a 8 = false →
        exec (.wait g j ph) s = .next (s.faulted 0x07 2 (BitVec.ofNat 64 (firstOut s.cur.winAb a)))) ∧
      (s.cur.engErr = none → a % 8 = 0 → inWindow s.cur.winAb a 8 = true → (w.getLsbD 63 = true ∨ w.getLsbD 62 ≠ (ph == 1)) →
        exec (.wait g j ph) s = .next (s.halt (.block (.landing a (ph == 1)))))) ∧
    exec (.yield g) s = .next (s.when g fun t =>
      if s.otherReady s.iss.cx = true then { t with iss := { t.iss with leave := some .turn } } else t)

/-- Barriers: a `tba` on the crew's tag arrives, and the last arrival sets the release 24 cycles ahead, or 160 for a crew
of several dies, and what the member's accesses have open is owed to that phase; a release ends the phase; `tbw` waits for the
phase in which its context last arrived, then holds the context's later accesses behind what is owed to that phase and still
open, and invalidates the core cache. -/
def Obligations.Barriers : Prop :=
  ∀ (g : Guard) (tag : BitVec 3) (id : Nat) (cr : Crew) (s : State),
    let cx := s.iss.cx
    (s.ctx cx).crew = some id → s.crew? id = some cr →
    (s.guard g = true → cr.tag ≠ some tag.toNat → exec (.tba g tag) s = .next (s.faulted 0x09 1 0) ∧
      exec (.tbw g tag) s = .next (s.faulted 0x09 1 0)) ∧
    (s.guard g = true → cr.tag = some tag.toNat → cx ∈ cr.arrivals → exec (.tba g tag) s = .next (s.faulted 0x04 4 0)) ∧
    (s.guard g = true → cr.tag = some tag.toNat → cx ∉ cr.arrivals →
      let full : Prop := cr.arrivals.length + 1 = cr.c * cr.d
      let due := s.g + if cr.d = 1 then 24 else 160
      ∃ t cr', exec (.tba g tag) s = .next t ∧ t.crew? id = some cr' ∧ cr'.arrivals = cx :: cr.arrivals ∧ cr'.phase = cr.phase ∧
        cr'.owes = cr.owes ++ (s.outstanding cx barrierScope).map (fun i => (cr.phase, i.1)) ∧
        (t.ctx cx).arrived = some (tag.toNat, cr.phase) ∧ (full → cr'.release = some due ∧ (due, .barrierRelease id) ∈ t.agenda) ∧
        (¬full → cr'.release = cr.release)) ∧
    (∀ r, cr.release = some r → r ≤ s.g → ∃ t, exec (.barrierRelease id) s = .next t ∧
      t.crew? id = some { cr with phase := cr.phase + 1, arrivals := [], release := none }) ∧
    (cr.tag = some tag.toNat → (s.ctx cx).arrived = none → exec (.tbw g tag) s = .next s) ∧
    (∀ ph, s.guard g = true → cr.tag = some tag.toNat → (s.ctx cx).arrived = some (tag.toNat, ph) →
      (cr.phase ≤ ph → exec (.tbw g tag) s = .next (s.halt (.block (.barrier tag.toNat)))) ∧
      (ph < cr.phase →
        let ids := s.open' ((cr.owes.filter (·.1 == ph)).map fun i => (i.2, s.stageOf barrierScope i.2))
        ∃ t, exec (.tbw g tag) s = .next t ∧ (t.core (coreOf cx)).cache = [] ∧ t.mem = s.mem ∧
          t.ctx cx = { s.ctx cx with loadHold := (s.ctx cx).loadHold ++ ids, storeHold := (s.ctx cx).storeHold ++ ids }))

/-- `fmt` writes a legal value, in effect after four ticks, and faults on any other; `fmtr` reads the value in effect.
The system registers by number: what `rsys` reads of each, that any other number faults, and what a landed `wsys`
changes. -/
def Obligations.SpecialRegisters : Prop :=
  (∀ (g : Guard) (d j : SReg) (val : W32) (s : State),
    let m (n : Nat) : Prop := n = 1 ∨ n = 2 ∨ n = 3 ∨ n = 8 ∨ n = 9
    let fld (v : W32) (hi lo : Nat) : Nat := v.toNat / 2 ^ lo % 2 ^ (hi + 1 - lo)
    let legal (v : W32) : Prop :=
      fld v 3 0 ≤ 6 ∧ m (fld v 7 4) ∧ m (fld v 11 8) ∧ (fld v 15 12 ≤ 5 ∨ fld v 15 12 = 8 ∨ fld v 15 12 = 9) ∧
      fld v 18 16 ≤ 4 ∧ (fld v 21 21 = 1 → fld v 11 8 = 1) ∧ fld v 31 26 = 0
    let low := BitVec.ofNat 32 (s.s j).toNat
    (legal low → exec (.fmt g j) s = .next (s.when g (·.after 4 (.fmt low)))) ∧
    (s.guard g = true → ¬legal low → exec (.fmt g j) s = .next (s.faulted 0x0C 1 0)) ∧
    (legal val → exec (.fmtImm g val) s = .next (s.when g (·.after 4 (.fmt val)))) ∧
    (s.guard g = true → ¬legal val → exec (.fmtImm g val) s = .next (s.faulted 0x0C 1 0)) ∧
    exec (.fmtr g d) s = .next (s.wrote g 1 d (BitVec.ofNat 64 s.cur.f.toNat))) ∧
  (∀ (g : Guard) (d j : SReg) (num : BitVec 10) (s : State),
    let c := s.cur
    let regs : List (BitVec 10 × Word) :=
      [(0x000, BitVec.ofNat 64 (c.sys.toNat * 2 ^ 15 + c.inh.toNat * 2 ^ 14 + (c.m11 && s.feature fPOWER).toNat * 2 ^ 13 +
          c.flags.toNat)),
       (0x001, c.cause), (0x002, c.epc), (0x003, c.faddr), (0x004, c.trapvec), (0x005, BitVec.ofNat 64 c.tick),
       (0x006, BitVec.ofNat 64 c.wdog.toNat), (0x007, BitVec.ofNat 64 (c.slip % 2 ^ 32)), (0x008, BitVec.ofNat 64 (s.iss.cx % 2048)),
       (0x010, c.winAb), (0x011, c.winWb), (0x012, c.winCb)]
    (∀ e ∈ regs, exec (.rsys g d e.1) s = .next (s.wrote g 1 d e.2) ∧
      exec (.wsys g j e.1) s = .next (s.when g (·.after 1 (.sys e.1.toNat (s.s j))))) ∧
    (s.guard g = true → (∀ e ∈ regs, e.1 ≠ num) →
      exec (.rsys g d num) s = .next (s.faulted 0x01 9 0) ∧ exec (.wsys g j num) s = .next (s.faulted 0x01 9 0)) ∧
    (∀ cx p v, s.landing? cx = true → (s.ctx cx).due = [p] → p.act = .sys num.toNat v →
      ∃ t, exec (.resultLand cx) s = .next t ∧
        (t.ctx cx).flags = (if num = 0 then (s.ctx cx).flags &&& ~~~ BitVec.ofNat 5 v.toNat else (s.ctx cx).flags) ∧
        (t.ctx cx).m11 = (if num = 0 ∧ s.feature fPOWER = true then v.getLsbD 13 else (s.ctx cx).m11) ∧
        (t.ctx cx).trapvec = (if num = 4 then BitVec.ofNat 64 (v.toNat / 4 * 4) else (s.ctx cx).trapvec) ∧
        (t.ctx cx).wdog = (if num = 6 ∧ v.toNat % 2 ^ 32 ≠ 0 then BitVec.ofNat 32 v.toNat else (s.ctx cx).wdog) ∧
        (t.ctx cx).cause = (s.ctx cx).cause ∧ (t.ctx cx).epc = (s.ctx cx).epc ∧ (t.ctx cx).winAb = (s.ctx cx).winAb))

/-- A fault, an illegal encoding among them, is taken at a handler that is set while INH is 0: the snapshot, CAUSE, FADDR,
EPC at the faulting bundle, INH, and the handler's address after three idle ticks; registers stay as they stand. With no
handler, or inside one, it ends the crew with its code.
The one fault that never enters a handler is 0x0B: a context whose tenant's account is exhausted issues no group; its crew is to
be saved, every member of it is asked to stop, and the context stops with its results latched, once no routine of its own is in
flight. -/
def Obligations.TakingAnException : Prop :=
  ∀ (s : State) (kind sub x : Nat) (faddr : Word) (slot : BitVec 8) (n : BitVec 8),
    let cx := s.iss.cx
    let c := s.ctx cx
    exec (.illegalEncoding slot n) s = .next (s.halt (.trap ⟨0x01, n.toNat, 0⟩ slot.toNat)) ∧
    (kind < 256 → sub < 256 → kind ≠ 0x0B → s.iss.slot < 8 → c.trapvec ≠ 0 → c.inh = false → s.groupStart cx c.trapvec = true →
      let d := (s.faulted kind sub faddr).ctx cx
      d.pc = c.trapvec ∧ d.inh = true ∧ d.idle = 3 ∧ d.epc = s.iss.bundle ∧ d.faddr = faddr ∧
      d.cause.toNat = s.iss.slot * 2 ^ 21 + sub * 2 ^ 8 + kind ∧ d.snap = some ⟨c.tick, c.pend⟩ ∧ d.pend = [] ∧
      d.sregs = c.sregs ∧ d.preds = c.preds ∧ d.v = c.v ∧ d.flags = c.flags ∧ d.f = c.f ∧ d.lc = c.lc ∧ d.loops = c.loops ∧
      d.tick = c.tick ∧ d.trapvec = c.trapvec) ∧
    (∀ id cr, c.crew = some id → s.crew? id = some cr → cr.ending = none → kind ≠ 0x0B → (c.trapvec = 0 ∨ c.inh = true) →
      (∃ cr', (s.faulted kind sub faddr).crew? id = some cr' ∧ cr'.ending = some (kind, coreOf cx)) ∧
      (cx ∈ cr.members → ((s.faulted kind sub faddr).ctx cx).mode = .idle)) ∧
    (∀ id cr, s.broke x = true → (s.ctx x).crew = some id → s.crew? id = some cr →
      let b := s.ctx x
      ∃ t, s.issue x = .next t ∧ t.mem = s.mem ∧ (∃ cr', t.crew? id = some cr' ∧ cr'.mode = .saving ∧ cr'.ending = cr.ending) ∧
        (cr.mode ≠ .saving → ∀ y ∈ s.live id cr, (t.ctx y).ev10 = true) ∧
        let d := t.ctx x
        d.pend = b.pend ∧ d.snap = b.snap ∧ d.pc = b.pc ∧ d.rest = b.rest ∧ d.inh = b.inh ∧ d.epc = b.epc ∧ d.cause = b.cause ∧
        d.sregs = b.sregs ∧ d.crew = b.crew ∧
        (b.flying = false → d.mode = .ready ∧ d.halted = true ∧ d.tick = b.tick ∧ (t.core (coreOf x)).lastCx = x % 4) ∧
        (b.flying = true → d.mode = b.mode ∧ d.halted = b.halted ∧ (b.mode = .holding → d.tick = b.tick + 1)))

/-- What a handler interrupted comes back: a write that was to land Δ ticks after the resumed bundle lands Δ ticks after the
tick of return, in the same order, once the handler's own results have landed. -/
def Obligations.ReturnReplays : Prop :=
  ∀ (s : State) (cx : Nat) (tr : Trap) (slot next r : Nat) (epc : Word) (rest : Option Rest),
    (s.ctx cx).pend.Pairwise (fun p q => p.seq ≤ q.seq) →
    let h := s.enterHandler cx tr slot epc next rest
    let d := ((h.modCtx cx fun c => { c with tick := r }).returnFrom cx).ctx cx
    d.pend = (s.ctx cx).pend.map (fun p => { p with land := p.land - next + r }) ∧ d.inh = false ∧ d.pc = epc ∧ d.snap = none ∧
    d.rest = rest

/-- `trap` ends its group with 0x0D, resuming where control then goes; `tret` waits from the end of its group three ticks at
least, and until the handler's results have landed, and faults with INH clear; `retire` leaves the width for good unless an
engine error is latched. -/
def Obligations.TrapReturnRetire : Prop :=
  ∀ (g : Guard) (code : BitVec 8) (s : State),
    exec (.trap g code) s = .next (s.when g (·.halt (.software code.toNat))) ∧
    (∀ core cx b n, Issues s core cx b n (.trap g code) →
      let u := (s.atEdge core).atOp cx b n
      u.guard g = true → u.backEdgeBad u.groupEnd = false →
      step s = .next (u.finishGroup cx ((s.atEdge core).tenantOf cx) u.groupEnd (some code.toNat)).resched) ∧
    (s.cur.inh = true → exec (.tret g) s = .next (s.when g fun u => { u with iss := { u.iss with tret := true } })) ∧
    (∀ cx ten x, s.iss.tret = true → let d := (s.finishGroup cx ten x none).ctx cx
      d.treturn = some ((s.ctx cx).tick + 3) ∧ d.pc = x.pc ∧ d.idle = 0 ∧ d.inh = (s.ctx cx).inh) ∧
    (∀ cx t0, (s.ctx cx).leaving = none → (s.ctx cx).treturn = some t0 →
      (t0 ≤ (s.ctx cx).tick → (s.ctx cx).quiet = true → s.holderTick cx = ((s.returnFrom cx).landDue cx).holderOn cx) ∧
      ((s.ctx cx).tick < t0 ∨ (s.ctx cx).quiet = false → s.holderTick cx = .next (s.countTick cx (s.tenantOf cx)))) ∧
    (s.guard g = true → s.cur.inh = false → exec (.tret g) s = .next (s.faulted 0x02 2 0)) ∧
    (s.cur.engErr = none → exec (.retire g) s = .next (s.when g fun t => { t with iss := { t.iss with leave := some .retire } })) ∧
    (s.guard g = true → s.cur.engErr ≠ none → exec (.retire g) s = .next (s.halt (.engine s.iss.slot)))

/-- Values of serving and time, hints and events: `time` is floor(G·5/18); a hint is a posted store to the partition's word;
`evt` takes the event register and clears it, at its issue (log entry 45, DEDUCED), its value landing after 200 ticks.
`realign` waits for a target at most 192 cycles ahead, and faults beyond; its end writes the lateness. `inject` is for
system contexts, and its mark goes out as a store would. -/
def Obligations.TimeAndPower : Prop :=
  (∀ (g : Guard) (d j : SReg) (n : BitVec 3) (s : State),
    exec (.qent g d) s = .next (s.wrote g 1 d s.cur.stepEntry) ∧
    exec (.tick g d) s = .next (s.wrote g 1 d (BitVec.ofNat 64 s.cur.tick)) ∧
    exec (.time g d) s = .next (s.wrote g 1 d (BitVec.ofNat 64 (s.g * 5 / 18))) ∧
    (s.guard g = true → ∃ t p, exec (.hint g j n) s = .next t ∧ t.posted = s.posted ++ [p] ∧ p.cx = s.iss.cx ∧
      p.hint = some ((s.partOf s.iss.cx).getD 32, n.toNat) ∧ leAt p.bytes 0 4 = (s.s j).toNat % 2 ^ 32 ∧
      (∀ q ∈ s.posted, q.cx = s.iss.cx → q.hint ≠ none → (q.id, performed) ∈ p.needs)) ∧
    (∀ p, s.guard g = true → s.partOf s.iss.cx = some p → ∃ t, exec (.evt g d) s = .next t ∧ Map.get 0 t.bin.events p = 0 ∧
      (d ≠ 0 → ∃ q ∈ t.cur.pend, q.act = .sreg d.toNat (BitVec.ofNat 64 (Map.get 0 s.bin.events p).toNat) ∧
        q.land = s.cur.tick + 200)) ∧
    (s.guard g = true → s.partOf s.iss.cx = none → ∃ t, exec (.evt g d) s = .next t ∧ t.bin = s.bin ∧
      (d ≠ 0 → ∃ q ∈ t.cur.pend, q.act = .sreg d.toNat 0 ∧ q.land = s.cur.tick + 200))) ∧
  (∀ (g : Guard) (d j : SReg) (imm kind : BitVec 10) (s : State),
    let t := (BitVec.ofInt 64 ((s.s j).toInt + imm.toInt)).toNat
    (t ≤ s.g + 192 → exec (.realign g d j imm) s = .next (s.when g fun u =>
      { u with iss := { u.iss with leave := some (.realign t d.toNat) } })) ∧
    (s.guard g = true → s.g + 192 < t → exec (.realign g d j imm) s = .next (s.faulted 0x04 3 0)) ∧
    (∀ cx r, s.realignOver cx = true → (s.ctx cx).realign = some r → ∃ u, exec (.realignResume cx) s = .next u ∧
      (u.ctx cx).realign = none ∧ (0 < r.d → (u.ctx cx).s r.d = BitVec.ofNat 64 (s.g - r.target))) ∧
    (s.guard g = true → s.cur.sys = false → exec (.inject g j kind) s = .next (s.faulted 0x02 1 0)) ∧
    (∀ u acc, s.guard g = true → s.cur.sys = true → s.check s.iss.cx s.iss.slot (s.s j) 1 1 .r false = .ok u acc →
      ∃ t p, exec (.inject g j kind) s = .next t ∧ t.posted = u.posted ++ [p] ∧ p.cx = s.iss.cx ∧ p.acc = acc ∧
        p.inject = some kind.toNat ∧ p.bytes = [] ∧ p.entry = none ∧ p.hint = none ∧ t.mem = u.mem ∧ t.tier = u.tier) ∧
    (∀ u st, s.guard g = true → s.cur.sys = true → s.check s.iss.cx s.iss.slot (s.s j) 1 1 .r false = .stop u st →
      exec (.inject g j kind) s = .next (u.halt st)))

/-- Loads, stores and atomics at policy 3: the bytes of AB at issue, extended; stored bytes readable a tick later; an atomic
reads and writes in one step at its issue, by its function, and no other read of its group sees it. Misaligned, outside the
window, before a ready tick, or over the port's 512 bytes of the tick, they fault.
The functions of `amo` on n bytes: swap, wrapping sum, bitwise, signed and unsigned minimum and maximum, and the FP32 sum.
Bytes stored to AB land together: each takes its value, but one that a store of a higher slot of the same group has written
already, and every other byte of every memory reads as before; as they land, the ready ticks of their rows end. -/
def Obligations.AbAccesses : Prop :=
  (∀ (g : Guard) (d j k : SReg) (wd : BitVec 2) (sgn : BitVec 1) (fn : BitVec 4) (ord : BitVec 2) (sc : BitVec 3) (x : Option W32)
    (s : State),
    let n := 2 ^ wd.toNat
    let a := (s.s j + (match x with | none => 0 | some e => BitVec.ofInt 64 e.toInt)).toNat
    let b := (s.s j).toNat
    let port (u : State) : State := u.claimAb [(u.cur.tick, n)]
    let old := s.abValue b n
    let v := (s.s k).toNat % 2 ^ (8 * n)
    (s.iss.abOld = [] → s.abNum a n = s.abValue a n) ∧
    (s.abOk a n true →
      exec (.ld g d j wd 0 3 ord sc x) s = .next (s.when g fun u => (port u).writeS 4 d (BitVec.ofNat 64 (s.abNum a n))) ∧
      exec (.ld g d j wd 1 3 ord sc x) s = .next (s.when g fun u =>
        (port u).writeS 4 d (BitVec.ofInt 64 (toSigned (8 * n) (s.abNum a n))))) ∧
    (s.abOk a n false →
      exec (.st g d j wd 3 ord sc x) s = .next (s.when g fun u => (port u).abStore a 1 (leBytes n (s.s d).toNat))) ∧
    (s.abOk b n true → s.guard g = true →
      let does (i : Instr) (new : Nat) : Prop := ∃ t, exec i s = .next t ∧ t.gets s d 4 (BitVec.ofNat 64 old) ∧
        t.abValue b n = new ∧ (∀ m, t.abByte m = s.abByte m) ∧
        ∀ m, m < abKey (coreOf s.iss.cx) b ∨ abKey (coreOf s.iss.cx) b + n ≤ m → t.byte m = s.byte m
      does (.amo g d j k fn wd 3 ord sc) (amoCombine fn.toNat n old v % 2 ^ (8 * n)) ∧
      does (.cas g d j k wd 3 ord sc) (if old = (s.s d).toNat % 2 ^ (8 * n) then v else old)) ∧
    (s.guard g = true → ∀ e ∈ ([(.ld g d j wd sgn 3 ord sc x, a, true), (.st g d j wd 3 ord sc x, a, false),
        (.amo g d j k fn wd 3 ord sc, b, true), (.cas g d j k wd 3 ord sc, b, true)] : List (Instr × Nat × Bool)),
      (e.2.1 % n ≠ 0 → exec e.1 s = .next (s.faulted 0x05 3 (BitVec.ofNat 64 e.2.1))) ∧
      (e.2.1 % n = 0 → inWindow s.cur.winAb e.2.1 n = false →
        exec e.1 s = .next (s.faulted 0x07 2 (BitVec.ofNat 64 (firstOut s.cur.winAb e.2.1)))) ∧
      (e.2.1 % n = 0 → inWindow s.cur.winAb e.2.1 n = true → e.2.2 = true → s.cur.notReady e.2.1 n = true →
        exec e.1 s = .next (s.faulted 0x04 1 0)) ∧
      (e.2.1 % n = 0 → inWindow s.cur.winAb e.2.1 n = true → (e.2.2 = true → s.cur.notReady e.2.1 n = false) →
        512 < Map.get 0 s.cur.abClaim s.cur.tick + n → exec e.1 s = .next (s.faulted 0x04 2 0)))) ∧
  (∀ (n old v : Nat), (n = 4 ∨ n = 8) → old < 2 ^ (8 * n) → v < 2 ^ (8 * n) →
    let so := toSigned (8 * n) old
    let sv := toSigned (8 * n) v
    (∀ fn, fn ≤ 8 → amoCombine fn n old v < 2 ^ (8 * n)) ∧
    amoCombine 0 n old v = v ∧ amoCombine 1 n old v = (old + v) % 2 ^ (8 * n) ∧ amoCombine 2 n old v = old &&& v ∧
    amoCombine 3 n old v = old ||| v ∧ amoCombine 4 n old v = old ^^^ v ∧
    toSigned (8 * n) (amoCombine 5 n old v) = Min.min so sv ∧ toSigned (8 * n) (amoCombine 6 n old v) = Max.max so sv ∧
    amoCombine 7 n old v = Min.min old v ∧ amoCombine 8 n old v = Max.max old v ∧
    amoCombine 9 4 old v = (encodeNum fp32 rne ((decodeNum fp32 false old).add false (decodeNum fp32 false v))).1) ∧
  (∀ (s : State) (cx : Nat) (p : Pend) (a : Nat) (bs : List Byte), s.landing? cx = true → (s.ctx cx).due = [p] → p.act = .ab a bs →
    ∃ t, exec (.resultLand cx) s = .next t ∧
      (∀ i, i < bs.length → t.byte (abKey (coreOf cx) (a + i)) =
        if ∃ e ∈ (s.ctx cx).abTop, e.1 / 8 = p.seq / 8 ∧ p.seq < e.1 ∧ e.2.1 ≤ a + i ∧ a + i < e.2.1 + e.2.2 then
          s.byte (abKey (coreOf cx) (a + i)) else bs.getD i 0) ∧
      (∀ k, (∀ i, i < bs.length → k ≠ abKey (coreOf cx) (a + i)) → t.byte k = s.byte k) ∧ (t.ctx cx).sregs = (s.ctx cx).sregs ∧
      (p.fu ≠ .converter → (s.ctx cx).abTop = [] → ∀ r, a / 256 ≤ r → r ≤ (a + bs.length - 1) / 256 → bs ≠ [] →
        Map.get 0 (t.ctx cx).rdy r = 0))

/-- The frame of accesses at policy 3: the issuing context's pending writes, port claims and ready ticks; a store's pending
bytes lie at the address it computes, in its width, and every byte of memory reads as before until they land; an atomic
changes the bytes at its address alone. -/
def Obligations.AbFrame : Prop :=
  ∀ (g : Guard) (d j k : SReg) (wd : BitVec 2) (sgn : BitVec 1) (fn : BitVec 4) (ord : BitVec 2) (sc : BitVec 3) (x : Option W32)
    (s t : State), s.iss.stopped = none → t.iss.stopped = none →
    let n := 2 ^ wd.toNat
    let stored (at' : Nat) (act : Act) : Prop := ∃ bs, act = .ab at' bs ∧ bs.length = n
    let kept : Prop := CurOnly s t AbOnly ∧ ∀ m, t.byte m = s.byte m
    (exec (.ld g d j wd sgn 3 ord sc x) s = .next t → kept ∧ NewPends s.cur t.cur (WritesS d)) ∧
    (exec (.st g d j wd 3 ord sc x) s = .next t → kept ∧ NewPends s.cur t.cur (stored (s.s j + offOf x).toNat)) ∧
    (∀ i ∈ ([.amo g d j k fn wd 3 ord sc, .cas g d j k wd 3 ord sc] : List Instr), exec i s = .next t →
      AbAtomicOnly s t (s.s j).toNat n AbOnly ∧ NewPends s.cur t.cur (WritesS d))

/-- The checks of a b-slot access to a device address, before any byte is touched: canonical, not across the top, aligned,
translated with permission, of one class, in a frame the tenant owns, RESIDENT, and a store marks its frame dirty. The home of
a frame serves it in its stack, or at HBM for P2 and while its die is not LIVE; host memory is served by the host. -/
def Obligations.AccessChecks : Prop :=
  ∀ (s : State) (cx slot : Nat) (a : Word) (n pol : Nat) (perm : Perm) (p0 : Bool), (n = 1 ∨ n = 2 ∨ n = 4 ∨ n = 8) →
    let low (v : Nat) : Prop := v < 2 ^ 56 ∨ 2 ^ 64 - 2 ^ 56 ≤ v
    let last := a.toNat + n - 1
    (¬low a.toNat → s.check cx slot a n pol perm p0 = .stop s (.trap ⟨0x05, 1, a⟩ slot)) ∧
    (low a.toNat → (2 ^ 64 ≤ last ∨ ¬low last ∨ last / 2 ^ 56 % 2 ≠ a.toNat / 2 ^ 56 % 2) →
      s.check cx slot a n pol perm p0 = .stop s (.trap ⟨0x05, 2, a⟩ slot)) ∧
    (low a.toNat → last < 2 ^ 64 → low last → last / 2 ^ 56 % 2 = a.toNat / 2 ^ 56 % 2 →
      (a.toNat % n ≠ 0 → s.check cx slot a n pol perm p0 = .stop s (.trap ⟨0x05, 3, a⟩ slot)) ∧
      (∀ e t, a.toNat % n = 0 → s.tenantOf cx = some t → (s.ctx cx).sys = false →
        s.atcFind (.core (coreOf cx)) (s.tenantPart t + 1) (some (s.tenantPasid t)) a.toNat = some e →
        perm.ok e.r e.w = true →
        let tr := e.tbase + (a.toNat % 2 ^ 57 - e.base)
        (∀ f off, s.classify tr = .frame f off → (∃ f' off', s.classify (tr + n - 1) = .frame f' off') →
          let fr := s.frame f
          ((fr.owned = false ∨ fr.owner ≠ t) → s.check cx slot a n pol perm p0 = .stop s (.trap ⟨0x06, 2, a⟩ slot)) ∧
          (fr.owned = true → fr.owner = t → fr.state = .retired →
            s.check cx slot a n pol perm p0 = .stop s (.trap ⟨0x0A, 2, a⟩ slot)) ∧
          (fr.owned = true → fr.owner = t → (fr.state = .absent ∨ fr.state = .inFlight) →
            ∃ u, s.check cx slot a n pol perm p0 = .stop u (.park (.frame f))) ∧
          (fr.owned = true → fr.owner = t → fr.state = .resident → fr.swm = false → s.tier.waking = [] → s.tier.copying = [] →
            ∃ u acc, s.check cx slot a n pol perm p0 = .ok u acc ∧ acc.loc = off ∧ acc.n = n ∧ acc.frame = some f ∧
              (fr.hbm < hbmFrames → acc.die = homeDie fr.hbm ∧
                acc.level = if p0 then 0 else if pol = 2 ∨ s.dieState (homeDie fr.hbm) ≠ 2 then 3 else 1) ∧
              u.frame f = { fr with cur := true, dirty := fr.dirty || perm != .r } ∧ ∀ m, u.byte m = s.byte m)) ∧
        (∀ h, s.classify tr = .host h → (∃ h', s.classify (tr + n - 1) = .host h') →
          s.check cx slot a n pol perm p0 = .ok s ⟨h, n, none, 5, 4⟩) ∧
        (∀ o, s.classify tr = .stack o → (∃ o', s.classify (tr + n - 1) = .stack o') → s.scratchOk (s.partOf cx) o = false →
          s.check cx slot a n pol perm p0 = .stop s (.trap ⟨0x06, 4, a⟩ slot))))

/-- A load at P0, P1 or P2 whose checks pass, with nothing to follow and no error met, writes its bytes extended at its
nominal latency, and zero of a frame in SCRUB; one that must follow others is held, and its register's place is kept (a load of
another die's memory reads at its issue too: log entry 20). A store is posted with its bytes, to be performed after those of its granule,
after what holds the context's stores, and, as a release, after the context's earlier accesses; one that stops in a check stops
there.
What is read, where no stored bit has an error and none of the core's own stores lies over it: the core cache's line; the copy in
the stack; HBM, where the home's stack holds no copy; the bytes of scratch. -/
def Obligations.DeviceLoadsAndStores : Prop :=
  (∀ (g : Guard) (d j : SReg) (wd : BitVec 2) (sgn : BitVec 1) (pol ord : BitVec 2) (sc : BitVec 3) (x : Option W32) (s u : State)
    (acc : Access), pol ≠ 3 → s.guard g = true → s.iss.stopped = none →
    let n := 2 ^ wd.toNat
    let cx := s.iss.cx
    let addr := s.s j + offOf x
    let p0 : Bool := pol == 0 && decide (sc.toNat ≤ 1)
    let lat := nominal (dieOf cx) acc
    let ld : Instr := .ld g d j wd sgn pol ord sc x
    let st : Instr := .st g d j wd pol ord sc x
    let h := u.opAt acc pol.toNat n (.load (sgn == 1)) addr d.toNat (ord == 1) false sc.toNat
    let v := u.newId.2
    let held : Prop := ∃ t k, exec ld s = .next t ∧ t.mem = u.mem ∧
      (t.core (coreOf cx)).held = (u.core (coreOf cx)).held ++ [k] ∧ k.id = u.nextId ∧ k.op = .load (sgn == 1) ∧ k.acc = acc ∧
      k.n = n ∧ k.d = d.toNat ∧ k.needs = v.opNeeds h ∧ k.start = u.g ∧
      ∃ p ∈ t.cur.pend, p.act = .load k.id d.toNat ∧ p.land = u.cur.tick + lat
    (s.check cx s.iss.slot addr n pol.toNat .r p0 = .ok u acc →
      let got := v.readAcc cx h.tick acc
      (v.opNeeds h = [] → got.dead = false → got.poison = false → got.s.iss = s.iss → got.s.cur.tick = s.cur.tick →
        ∃ t, exec ld s = .next t ∧ t.gets s d lat
          (if sgn = 1 then BitVec.ofInt 64 (toSigned (8 * n) (leAt got.bytes 0 n)) else BitVec.ofNat 64 (leAt got.bytes 0 n))) ∧
      (v.opNeeds h ≠ [] → held)) ∧
    (s.check cx s.iss.slot addr n pol.toNat .r p0 = .zero u acc →
      (v.opNeeds h = [] → ∃ t, exec ld s = .next t ∧ t.gets u d lat 0 ∧ t.mem = u.mem) ∧
      (v.opNeeds h ≠ [] → held)) ∧
    (∀ sp, s.check cx s.iss.slot addr n pol.toNat .r p0 = .stop u sp → exec ld s = .next (u.halt sp)) ∧
    (s.check cx s.iss.slot addr n pol.toNat .w false = .ok u acc →
      let rel : Prop := ord = 2 ∧ 2 ≤ sc.toNat
      let first := u.sameGranule cx acc ++ (u.ctx cx).storeHold
      ∃ t p, exec st s = .next t ∧ t.mem = u.mem ∧
        t.posted = (if rel then u.askSystem cx (acc.effective sc.toNat) else u).posted ++ [p] ∧ p.cx = cx ∧ p.addr = addr ∧
        p.bytes.length = n ∧ leAt p.bytes 0 n = (s.s d).toNat % 2 ^ (8 * n) ∧ p.mask = 2 ^ n - 1 ∧ p.acc = acc ∧ p.stage = 0 ∧
        p.pol = pol.toNat ∧ (¬rel → p.needs = u.open' first) ∧
        (rel → p.needs = u.open' (first ++ u.outstanding cx (acc.effective sc.toNat)))) ∧
    (∀ sp, s.check cx s.iss.slot addr n pol.toNat .w false = .stop u sp → exec st s = .next (u.halt sp))) ∧
  (∀ (s : State) (cx tick : Nat) (acc : Access), acc.loc % 64 + acc.n ≤ 64 → s.unmarked → s.forwarded cx tick acc = [] →
    let core := coreOf cx
    let line := Map.get [] (s.core core).cache (lineKey acc)
    let got := s.readAcc cx tick acc
    let part (bs : List Byte) : List Byte := (bs.drop (acc.loc % 64)).take acc.n
    let gives (bs : List Byte) : Prop := got.poison = false ∧ got.dead = false ∧ got.s.mem = s.mem ∧ got.bytes = bs
    (acc.level = 0 → line ≠ [] → gives (part line)) ∧
    (acc.level ≠ 0 → (acc.frame = none → acc.die ≠ 4 → gives (s.bytes (scratchKey acc.loc) acc.n)) ∧
      (∀ f, acc.frame = some f → (s.frame f).state ≠ .retired →
        (acc.level = 3 → s.homeCopy f (acc.loc / 64) = none → gives (s.bytes (hbmKey (s.frame f).hbm acc.loc) acc.n)) ∧
        (acc.level = 1 ∨ acc.level = 2 → ∀ k x, s.stackCopy acc.die f (acc.loc / 64) (s.ownerOf cx) = some (k, x) →
          gives (part x.bytes)))))

/-- Atomics at a device address: the old value at the nominal latency, P0 as P1, and in host memory the new bytes in the
same step, nothing else of memory changed; a `cas` that fails writes no byte, and follows none of what its write would. One
that must follow others is held, and nothing of memory changes. -/
def Obligations.DeviceAtomics : Prop :=
  ∀ (g : Guard) (d j k : SReg) (fn : BitVec 4) (wd pol ord : BitVec 2) (sc : BitVec 3) (s : State) (h : Nat),
    pol ≠ 3 → s.guard g = true →
    let n := 2 ^ wd.toNat
    let cx := s.iss.cx
    let lv := if pol = 0 then 1 else pol.toNat
    let acc : Access := ⟨h, n, none, 5, 4⟩
    let old := s.num (hostKey h) n
    let v := (s.s k).toNat % 2 ^ (8 * n)
    let others (t : State) : Prop := ∀ m, m < hostKey h ∨ hostKey h + n ≤ m → t.byte m = s.byte m
    let first := s.open' (s.sameGranule cx acc ++ s.cur.loadHold)
    let writes := s.open' (s.cur.storeHold ++ (if ord.getLsbD 1 && decide (2 ≤ sc.toNat) then s.outstanding cx sc.toNat else []))
    let amo : Instr := .amo g d j k fn wd pol ord sc
    let cas : Instr := .cas g d j k wd pol ord sc
    s.check cx s.iss.slot (s.s j) n lv .rw false = .ok s acc → h % 64 + n ≤ 64 →
    (first = [] → writes = [] → ∃ t, exec amo s = .next t ∧ t.gets s d 2000 (BitVec.ofNat 64 old) ∧
      t.num (hostKey h) n = amoCombine fn.toNat n old v % 2 ^ (8 * n) ∧ others t) ∧
    (first = [] → (old = (s.s d).toNat % 2 ^ (8 * n) → writes = []) → ∃ t, exec cas s = .next t ∧
      t.gets s d 2000 (BitVec.ofNat 64 old) ∧ t.num (hostKey h) n = (if old = (s.s d).toNat % 2 ^ (8 * n) then v else old) ∧ others t) ∧
    (first ≠ [] → ∀ i ∈ ([amo, cas] : List Instr), ∃ t q, exec i s = .next t ∧ t.mem = s.mem ∧
      (t.core (coreOf cx)).held = (s.core (coreOf cx)).held ++ [q] ∧ q.acc = acc ∧ q.needs = first ∧ q.writes = writes ∧
      ∃ p ∈ t.cur.pend, p.act = .load q.id d.toNat ∧ p.land = s.cur.tick + 2000)

/-- A posted store performs once what it must follow has; until then it waits. A hint reaches its word. A host store enters the
collective die, then leaves the package with its bytes in host memory and nothing else changed (log entry 89); asked for, one read
of length zero follows all that have left (log entry 66), and then they are visible in the system; a function that is stopped sends
nothing, and its stores go (log entry 66). A store to another die enters the collective die first, and performs a transit later at
the earliest. A store to a frame or to scratch, where no stored bit has an error, puts its masked bytes at its level and leaves
every other byte: in HBM where the home's stack holds no copy, in a stack's copy, which then is dirty there, or in scratch. An
`inject` leaves its mark. -/
def Obligations.PostedStoresPerform : Prop :=
  ∀ (s : State) (id : Nat) (p : Posted), s.posted.find? (·.id == id) = some p →
    let acc := s.placed p
    let does (ok : State → Prop) : Prop := ∃ t, exec (.postedStorePerform id) s = .next t ∧ ok t
    let gone (t : State) : Prop := ∀ q ∈ t.posted, q.id ≠ id
    let at' (n : Nat) (t : State) : Prop := ∀ q ∈ t.posted, q.id = id → q.stage = n
    let here : Prop := acc.die ≠ 4 ∧ (acc.die = dieOf p.cx ∨ p.stage ≠ 0)
    ((s.open' p.needs).isEmpty = false → does fun t => t.posted = s.posted ∧ t.mem = s.mem) ∧
    ((s.open' p.needs).isEmpty = true →
      (∀ part w, p.hint = some (part, w) → part < 32 → does fun t =>
        Map.get 0 t.bin.hints (8 * part + w) = BitVec.ofNat 32 (leAt p.bytes 0 4) ∧ gone t ∧ t.mem = s.mem) ∧
      (p.hint = none → p.acc.die = 4 → p.acc.frame = none →
        let fn := (s.fnPasid p.owner).1
        (s.fnStopped fn = true → does fun t => gone t ∧ t.mem = s.mem ∧ t.outbox = s.outbox) ∧
        (s.fnStopped fn = false →
          (p.stage = 0 → does fun t => t.mem = s.mem ∧ at' 1 t) ∧
          (p.stage = 1 → p.acc.loc % 64 + p.bytes.length ≤ 64 → p.mask < 2 ^ p.bytes.length → does fun t =>
            (p.entry = none → at' 2 t ∧ s.storedAt t (hostKey p.acc.loc) p.bytes p.mask) ∧ (p.entry ≠ none → gone t)) ∧
          (p.stage = 2 → p.sys = false → exec (.postedStorePerform id) s = .next s) ∧
          (p.stage = 2 → p.sys = true → s.tenantOf p.cx = p.owner → does fun t => t.mem = s.mem ∧
            t.outbox = s.outbox ++ [.zeroRead fn (s.fnPasid p.owner).2] ∧
            ∀ q ∈ s.posted, q.cx = p.cx → q.stage = 2 → q.sys = true → { q with stage := 3 } ∈ t.posted) ∧
          (3 ≤ p.stage → p.entry = none → does fun t => gone t ∧ t.mem = s.mem))) ∧
      (p.hint = none → acc.die ≠ 4 → acc.die ≠ dieOf p.cx → p.stage = 0 → does fun t => t.mem = s.mem ∧ at' 1 t ∧
        ∃ k, transit (dieOf p.cx) acc.die < k ∧ (s.g + k, .postedStorePerform id) ∈ t.agenda) ∧
      (p.hint = none → here → p.inject = none → p.entry = none → s.unmarked → acc.loc % 64 + p.bytes.length ≤ 64 →
        p.mask < 2 ^ p.bytes.length →
        (acc.frame = none → does fun t => gone t ∧ s.storedAt t (scratchKey acc.loc) p.bytes p.mask) ∧
        (∀ f, acc.frame = some f → s.notOwned f p.owner = false → (s.frame f).state = .resident →
          (acc.level = 3 → (s.frame f).swm = false → s.homeCopy f (acc.loc / 64) = none → does fun t =>
            gone t ∧ s.storedAt t (hbmKey (s.frame f).hbm acc.loc) p.bytes p.mask ∧ (t.frame f).dirty = true) ∧
          (acc.level = 1 ∧ (s.frame f).swm = false ∨ acc.level = 2 → ∀ k x, s.stackCopy acc.die f (acc.loc / 64) p.owner = some (k, x) →
            does fun t => gone t ∧ (∀ m, t.byte m = s.byte m) ∧ (t.frame f).dirty = true ∧ ∃ y, t.tier.stack = Map.put s.tier.stack k y ∧
              y.frame = f ∧ y.idx = x.idx ∧ y.owner = x.owner ∧ ∀ m, m < 64 →
                let w : Bool := decide (acc.loc % 64 ≤ m ∧ m < acc.loc % 64 + p.bytes.length) && hasBit p.mask (m - acc.loc % 64)
                y.bytes.getD m 0 = (if w then p.bytes.getD (m - acc.loc % 64) 0 else x.bytes.getD m 0) ∧
                y.dirty.getLsbD m = (x.dirty.getLsbD m || w)))) ∧
      (∀ f kind, p.hint = none → here → acc.frame = some f → p.inject = some kind → (s.frame f).state = .resident →
        s.notOwned f p.owner = false →
        exec (.postedStorePerform id) s = .next ((s.markGranule p.cx acc kind).performed p)))

/-- Element-wise arithmetic under f.VE: floating point exact and rounded once with its flags, integers wrapping in their
width; 2 or 6 ticks by shape, two more for `vfma`; a VE that is illegal, or an ALU still occupied, faults. An exact zero sum is
+0, but −0 when both summands are −0, and under rounding toward −∞ (R322; that two zeros of +0 are such a sum is log entry 92,
DEDUCED).
Maximum and minimum treat NaN as missing, order −0 below +0, and agree with the exact order otherwise. -/
def Obligations.TileArithmetic : Prop :=
  (∀ (sl : VWSlot) (g : Guard) (d a b : TileOp) (bs : BitVec 1) (x : Option TExt) (s : State),
    let f := s.cur.f
    let r := rndOf f
    let dn := r.rm == 3
    let whole := d.dir == .whole
    let lat := if whole then 6 else 2
    let ls := s.cur.lanesD d x
    let op (fp : Exact → Exact → Exact → Exact) (int : Int → Int → Int → Int) (p q z : Nat) : Nat × Flags :=
      match elemOf (fVE f) with
      | .fp m => encodeNum m r (fp (decodeNum m r.fz p) (decodeNum m r.fz q) (decodeNum m r.fz z))
      | .int w => ((int (toSigned w p) (toSigned w q) (toSigned w z) % (2 ^ w : Nat)).toNat, 0)
      | _ => (0, 0)
    let same (fp : Exact → Exact → Exact) (int : Int → Int → Int) (p q : Nat) : Nat × Flags :=
      match elemOf (fVE f) with
      | .fp m =>
        let u := decodeNum m r.fz p
        let v := decodeNum m r.fz q
        ((encodeNum m rne (fp u v)).1, (encodeNum m rne (fp u v)).2 ||| sigFlags u ||| sigFlags v)
      | .int w => ((int (toSigned w p) (toSigned w q) % (2 ^ w : Nat)).toNat, 0)
      | _ => (0, 0)
    let two (l : Nat) (o : Nat → Nat → Nat → Nat × Flags) : Res :=
      .next (s.when g (·.tileDone sl whole l ls (s.cur.lanewise d a b bs x (veWidth f) o)))
    let one (o : Nat → Nat → Nat → Nat × Flags) : Res :=
      .next (s.when g (·.tileDone sl whole lat ls (s.cur.lanewise d a a 0 x (veWidth f) o)))
    (fVE f ≤ 5 → s.aluFree sl →
      exec (.vadd sl g d a b bs x) s = two lat (op (fun u v _ => u.plus dn v) fun u v _ => u + v) ∧
      exec (.vsub sl g d a b bs x) s = two lat (op (fun u v _ => u.plus dn v.negate) fun u v _ => u - v) ∧
      exec (.vmul sl g d a b bs x) s = two lat (op (fun u v _ => u.mul v) fun u v _ => u * v) ∧
      exec (.vfma sl g d a b bs x) s = two (lat + 2) (op (fun u v z => (u.mul v).plus dn z) fun u v z => u * v + z) ∧
      exec (.vmax sl g d a b bs x) s = two lat (fun p q _ =>
        same (fun u v => quiet (numMax u v)) (fun u v => Max.max u v) p q) ∧
      exec (.vmin sl g d a b bs x) s = two lat (fun p q _ =>
        same (fun u v => quiet (numMin u v)) (fun u v => Min.min u v) p q) ∧
      exec (.vabs sl g d a x) s = one (fun p _ _ => same (fun u _ => u.absVal) (fun u _ => u.natAbs) p 0) ∧
      exec (.vneg sl g d a x) s = one (fun p _ _ => same (fun u _ => u.negate) (fun u _ => -u) p 0)) ∧
    (s.guard g = true → ∀ i ∈ ([.vadd sl g d a b bs x, .vsub sl g d a b bs x, .vmul sl g d a b bs x, .vfma sl g d a b bs x,
        .vmax sl g d a b bs x, .vmin sl g d a b bs x, .vabs sl g d a x, .vneg sl g d a x] : List Instr),
      (5 < fVE f → exec i s = .next (s.faulted 0x01 2 0)) ∧
      (fVE f ≤ 5 → s.cur.tick < Map.get 0 s.cur.busy (fuNum (aluOf sl)) → Map.get 0 s.cur.busy (fuNum (aluOf sl)) < farTick →
        exec i s = .next (s.faulted 0x04 2 0)))) ∧
  (∀ (down a b : Bool) (n m d e : Nat), 0 < d → 0 < e → Exact.sgn a n * e + Exact.sgn b m * d = 0 →
    Exact.plus down (.fin a n d) (.fin b m e) = .fin (down || (n == 0 && m == 0 && a && b)) 0 1) ∧
  (∀ u v : Exact,
    (u.isNaN = true → numMax u v = v ∧ numMin u v = v) ∧
    (u.isNaN = false → v.isNaN = true → numMax u v = u ∧ numMin u v = u) ∧
    (u.lt v = true → v.lt u = false → numMax u v = v ∧ numMin u v = u) ∧
    (v.lt u = true → u.lt v = false → numMax u v = u ∧ numMin u v = v) ∧
    numMax (.fin true 0 1) (.fin false 0 1) = .fin false 0 1 ∧ numMin (.fin false 0 1) (.fin true 0 1) = .fin true 0 1)

/-- Logic, shifts, moves, compares, selects and conversions on lanes: raw bits of a lane or of the elements VE names; a
conversion to the operand's own format keeps an infinity, and a signalling NaN sets NV in every conversion. -/
def Obligations.TileLogic : Prop :=
  ∀ (sl : VWSlot) (g : Guard) (d a b : TileOp) (bs : BitVec 1) (x : Option TExt) (y : TExt) (s : State),
    let f := s.cur.f
    let r := rndOf f
    let whole := d.dir == .whole
    let lat := if whole then 6 else 2
    let ve := elemOf (fVE f)
    let sw := if fVE f = 5 then 8 else 32
    let cond := y.aux.toNat % 16
    let two (x : Option TExt) (w : Nat) (o : Nat → Nat → Nat → Nat × Flags) : Res :=
      .next (s.when g (·.tileDone sl whole lat (s.cur.lanesD d x) (s.cur.lanewise d a b bs x w o)))
    let src := ve
    let dst := elemOf (y.aux.toNat % 16)
    let conv (c : Nat) : Nat × Flags :=
      let v := src.decode r.fz c
      if y.aux.toNat % 16 = 6 then
        (if fVE f = 6 then (if c % 2 = 1 then c % 65536 else 0, 0) else (turnsToPh16 v, sigFlags v))
      else if y.aux.toNat % 16 = fVE f ∧ (v = .inf true ∨ v = .inf false) then (c % 2 ^ src.width, 0)
      else dst.encode r v
    s.aluFree sl →
    exec (.vand sl g d a b bs x) s = two x 32 (fun p q _ => (p &&& q, 0)) ∧
    exec (.vor sl g d a b bs x) s = two x 32 (fun p q _ => (p ||| q, 0)) ∧
    exec (.vxor sl g d a b bs x) s = two x 32 (fun p q _ => (p ^^^ q, 0)) ∧
    exec (.vshl sl g d a b bs x) s = two x sw (fun p q _ => (p * 2 ^ (q % 256) % 2 ^ sw, 0)) ∧
    exec (.vshr sl g d a b bs x) s = two x sw (fun p q _ => (p / 2 ^ (q % 256), 0)) ∧
    exec (.vsar sl g d a b bs x) s = two x sw (fun p q _ => ((toSigned sw p / (2 ^ (q % 256) : Nat) % (2 ^ sw : Nat)).toNat, 0)) ∧
    exec (.vsel sl g d a b bs x) s = two x (veWidth f) (fun p q z => (if z ≠ 0 then p else q, 0)) ∧
    exec (.vmov sl g d a x) s = .next (s.when g (·.tileDone sl whole lat (s.cur.lanesD d x)
      (s.cur.lanewise d a a 0 x 32 fun p _ _ => (p, 0)))) ∧
    ((fVE f ≤ 3 ∧ cond ≤ 7) ∨ (fVE f = 4 ∨ fVE f = 5) ∧ cond ≤ 11 →
      exec (.vcmp sl g d a b bs y) s = two (some y) (veWidth f) (fun p q _ => match ve with
        | .fp m => (if fcmpRel cond (decodeNum m r.fz p) (decodeNum m r.fz q) then 2 ^ m.width - 1 else 0,
            fcmpFlags cond (decodeNum m r.fz p) (decodeNum m r.fz q))
        | .int w => (if cmpRel w cond p q then 2 ^ w - 1 else 0, 0)
        | _ => (0, 0))) ∧
    (fVE f ≤ 6 → cond ≤ 6 → exec (.vcvt sl g d a y) s = .next (s.when g (·.tileDone sl whole lat (s.cur.lanesD d (some y))
      (joinLanes ((s.cur.lanes (s.cur.lanesA a (some y))).map fun v =>
        overElems dst.width (Nat.min src.perLane dst.perLane) fun e => conv (elemBits src.width e v))))))

/-- Lanes that move: broadcasts, rotations, permutation and index, lane by lane, at 2 ticks along x and 3 along y. -/
def Obligations.MovingLanes : Prop :=
  ∀ (sl : VWSlot) (g : Guard) (d a b : TileOp) (x : TExt) (o : Option TExt) (s : State),
    let c := s.cur
    let ia (x : Option TExt) := c.tileIndex a (ovA x)
    let at' (y xx : Nat) : W32 := c.lane (laneNo a.tile y xx)
    let n64 := x.aux.toNat % 64
    let n16 := x.aux.toNat % 16
    let lat := if d.dir = .whole then 6 else 2
    (s.aluFree sl → Shape.rowLike d a = true →
      s.givesLanes (.vbcx sl g d a x) sl g d (some x) 2 false 0 (fun y _ => at' (rowIn a (ia (some x)) y) n64) ∧
      s.givesLanes (.vrolx sl g d a x) sl g d (some x) 2 false 0
        (fun y xx => at' (rowIn a (ia (some x)) y) ((xx + 64 - n64) % 64))) ∧
    (s.aluFree sl → Shape.colLike d a = true →
      s.givesLanes (.vbcy sl g d a x) sl g d (some x) 3 false 0 (fun _ xx => at' n16 (colIn a (ia (some x)) xx)) ∧
      s.givesLanes (.vroly sl g d a x) sl g d (some x) 3 false 0
        (fun y xx => at' ((y + 16 - n16) % 16) (colIn a (ia (some x)) xx))) ∧
    (s.aluFree .w → Shape.rowLike d a = true → Shape.rowLike d b = true →
      s.givesLanes (.vperm g d a b o) .w g d o lat (d.dir == .whole) 0 (fun y xx =>
        at' (rowIn a (ia o) y) ((c.lane (laneNo b.tile (rowIn b (c.tileIndex b (ovB o)) y) xx)).toNat % 64))) ∧
    (s.aluFree sl →
      s.givesLanes (.viota sl g d o) sl g d o lat (d.dir == .whole) 0 (fun y xx => BitVec.ofNat 32 (match d.dir with
        | .whole => 64 * y + xx
        | .row => xx
        | .col => y
        | .diag => y)))

/-- Reductions and scans: each result from the row or column it covers, element by element, in 5 ticks along x and 4 along
y.
The order of the lanes never changes an exact sum.
`vargx` finds the greatest element that is a number, the lowest lane of equals; all ones when every element is NaN. -/
def Obligations.Reductions : Prop :=
  (∀ (sl : VWSlot) (g : Guard) (d a : TileOp) (x : Option TExt) (s : State),
    let c := s.cur
    let f := c.f
    let ia := c.tileIndex a (ovA x)
    let row (y : Nat) : List W32 := (List.range 64).map fun xx => c.lane (laneNo a.tile (rowIn a ia y) xx)
    let col (xx : Nat) : List W32 := (List.range 16).map fun y => c.lane (laneNo a.tile y (colIn a ia xx))
    let red (op : W32 → List Nat → Nat × Flags) (vs : List W32) : W32 :=
      (overElems (veWidth f) (32 / veWidth f) fun e => op f (vs.map (elemBits (veWidth f) e))).1
    let ex : Bool := match x with | some t => t.aux.getLsbD 0 | none => false
    s.aluFree sl → fVE f ≤ 5 →
    (Shape.redX d a = true →
      (∃ fl, s.givesLanes (.vsumx sl g d a x) sl g d x 5 false fl (fun y _ => red sumElems (row y))) ∧
      (∃ fl, s.givesLanes (.vmaxx sl g d a x) sl g d x 5 false fl (fun y _ => red maxElems (row y))) ∧
      s.givesLanes (.vargx sl g d a x) sl g d x 5 false 0 (fun y _ => red argElems (row y))) ∧
    (Shape.redY d a = true →
      (∃ fl, s.givesLanes (.vsumy sl g d a x) sl g d x 4 false fl (fun _ xx => red sumElems (col xx))) ∧
      (∃ fl, s.givesLanes (.vmaxy sl g d a x) sl g d x 4 false fl (fun _ xx => red maxElems (col xx)))) ∧
    (Shape.rowLike d a = true →
      ∃ fl, s.givesLanes (.vscanx sl g d a x) sl g d x 5 false fl
        (fun y xx => red sumElems ((row y).take (if ex then xx else xx + 1))))) ∧
  (∀ (down : Bool) (xs ys : List Exact), xs.Perm ys → sumNums down xs = sumNums down ys) ∧
  (∀ (f : W32) (cs : List Nat), fVE f ≤ 5 → cs.length = 64 →
    let e := elemOf (fVE f)
    let v (i : Nat) : Exact := e.decode (rndOf f).fz (cs.getD i 0)
    let i := (argElems f cs).1
    ((∀ j, j < 64 → (v j).isNaN = true) → i = 2 ^ e.width - 1) ∧
    ((∃ j, j < 64 ∧ (v j).isNaN = false) → i < 64 ∧ (v i).isNaN = false ∧
      ∀ j, j < 64 → (v j).isNaN = false → (v i).lt (v j) = false ∧ (j < i → (v j).lt (v i) = true)))

/-- Special functions: the exact value rounded once, in 8 ticks; the results of zeros, infinities and NaN by R338's table. -/
def Obligations.SpecialFunctions : Prop :=
  ∀ (g : Guard) (d a : TileOp) (x : Option TExt) (s : State),
    let f := s.cur.f
    let does (i : Instr) (fn : Exact → Exact × Flags) : Prop :=
      (s.aluFree .w → fVE f ≤ 1 → exec i s = .next (s.when g (·.tileDone .w (d.dir == .whole) 8 (s.cur.lanesD d x)
        (s.cur.lanewise d a a 0 x (veWidth f) fun p _ _ => specialElem fn f p)))) ∧
      (s.guard g = true → 1 < fVE f → exec i s = .next (s.faulted 0x01 2 0))
    does (.vexp2 g d a x) (fun v => (exp2Num v, 0)) ∧ does (.vlog2 g d a x) log2Num ∧ does (.vrcp g d a x) rcpNum ∧
    does (.vrsqrt g d a x) rsqrtNum ∧
    (∀ neg, exp2Num (.fin neg 0 1) = .fin false 1 1 ∧ log2Num (.fin neg 0 1) = (.inf true, flagDZ) ∧
      rcpNum (.fin neg 0 1) = (.inf neg, flagDZ) ∧ rsqrtNum (.fin neg 0 1) = (.inf neg, flagDZ)) ∧
    exp2Num (.inf false) = .inf false ∧ exp2Num (.inf true) = .fin false 0 1 ∧
    log2Num (.inf false) = (.inf false, 0) ∧ log2Num (.inf true) = (.nan true, 0) ∧
    (∀ neg, rcpNum (.inf neg) = (.fin neg 0 1, 0)) ∧ rsqrtNum (.inf false) = (.fin false 0 1, 0) ∧
    rsqrtNum (.inf true) = (.nan true, 0) ∧
    (∀ n m, n ≠ 0 → log2Num (.fin true n m) = (.nan true, 0) ∧ rsqrtNum (.fin true n m) = (.nan true, 0)) ∧
    (∀ k : Nat, k ≤ 149 → log2Num (.fin false 1 (2 ^ k)) = (.ofInt (-k), 0) ∧ exp2Num (.fin true k 1) = .fin false 1 (2 ^ k))

/-- Phasor ops on angles: sums and differences modulo 32,768, undefined when an operand is; the classes of `ph.cmp`; turns,
and rotations and magnitudes of pairs.
A reduced lane of angles is undefined when no element is defined or the coherence is below its threshold; else its angle
code is that of the sums and is defined, and its coherence is the nearest fraction of 65,536, at most 65,535. -/
def Obligations.Phasors : Prop :=
  (∀ (g : Guard) (d a b : TileOp) (bs : BitVec 1) (x : Option TExt) (s : State), s.aluFree .w →
    let whole := d.dir == .whole
    let lat := if whole then 6 else 2
    let def' (c : Nat) : Prop := c % 2 = 1
    let ang (c : Nat) : Nat := c % 65536 / 2
    let two (l : Nat) (o : Nat → Nat → Nat) : Res :=
      .next (s.when g (·.tileDone .w whole l (s.cur.lanesD d x) (s.cur.lanewise d a b bs x 32 fun p q _ => (o p q, 0))))
    let one (l : Nat) (o : Nat → Nat × Flags) : Res :=
      .next (s.when g (·.tileDone .w whole l (s.cur.lanesD d x) (s.cur.lanewise d a a 0 x 32 fun p _ _ => o p)))
    (∃ m, exec (.phMul g d a b bs x) s = two lat m ∧ ∀ p q, m p q = if def' p ∧ def' q then (ang p + ang q) % 32768 * 2 + 1 else 0) ∧
    (∃ m, exec (.phDiv g d a b bs x) s = two lat m ∧
      ∀ p q, m p q = if def' p ∧ def' q then ((ang p - ang q : Int) % 32768).toNat * 2 + 1 else 0) ∧
    (∃ m, exec (.phPow g d a b bs x) s = two lat m ∧
      ∀ p q, m p q = if def' p then ((ang p : Int) * toSigned 32 q % 32768).toNat * 2 + 1 else 0) ∧
    (∃ m, exec (.phCmp g d a b bs x) s = two lat m ∧ ∀ p q, m p q =
      if ¬(def' p ∧ def' q) then 3 else if ang p = ang q then 0
      else if ((ang q - ang p : Int) % 32768) < 16384 then 1 else if ((ang p - ang q : Int) % 32768) < 16384 then 2 else 3) ∧
    exec (.phCvt g d a x) s = one lat (fun p => (turnsToPh16 (decodeNum fp32 false p), 0)) ∧
    (∃ m, exec (.phCos g d a x) s = one 8 m ∧ ∀ p, m p = if def' p then encodeNum fp32 rne (tableNum (cosTable (ang p))) else (0x7FC00000, 0)) ∧
    (∃ m, exec (.phSin g d a x) s = one 8 m ∧ ∀ p, m p = if def' p then encodeNum fp32 rne (tableNum (sinTable (ang p))) else (0x7FC00000, 0)) ∧
    (Shape.redX d a = true → s.givesLanes (.phSumx g d a x) .w g d x 5 false 0 (fun y _ =>
      (phSum ((List.range 64).map fun xx => s.cur.lane (laneNo a.tile (rowIn a (s.cur.tileIndex a (ovA x)) y) xx))).1)) ∧
    (Shape.redY d a = true → s.givesLanes (.phSumy g d a x) .w g d x 4 false 0 (fun _ xx =>
      (phSum ((List.range 16).map fun y => s.cur.lane (laneNo a.tile y (colIn a (s.cur.tileIndex a (ovA x)) xx)))).1)) ∧
    (Shape.rowLike d a = true → Shape.rowLike d b = true →
      let row (t : TileOp) (o : Option (BitVec 6)) (y xx : Nat) : W32 := s.cur.lane (laneNo t.tile (rowIn t (s.cur.tileIndex t o) y) xx)
      let pick (pr : Nat → (W32 × Flags) × (W32 × Flags)) (xx : Nat) : W32 := if xx % 2 = 0 then (pr (xx / 2)).1.1 else (pr (xx / 2)).2.1
      (∃ fl, s.givesLanes (.phRot g d a b x) .w g d x (lat + 2) whole fl (fun y => pick fun i =>
        rotPair (row b (ovB x) y (2 * i)).toNat (row a (ovA x) y (2 * i)) (row a (ovA x) y (2 * i + 1)))) ∧
      (∃ fl, s.givesLanes (.phFrom g d a x) .w g d x lat whole fl (fun y => pick fun i =>
        fromPair (row a (ovA x) y (2 * i)) (row a (ovA x) y (2 * i + 1)))))) ∧
  (∀ vs : List W32,
    let as := (vs.filter fun v => v.getLsbD 0).map fun v => v.toNat / 2 % 32768
    let n : Int := as.length
    let X : Int := (as.map cosTable).sum
    let Y : Int := (as.map sinTable).sum
    (n = 0 ∨ X * X + Y * Y < (4 * n) * (4 * n) → phSum vs = (0, 0)) ∧
    (¬(n = 0 ∨ X * X + Y * Y < (4 * n) * (4 * n)) → ∃ coh : Nat, (phSum vs).2 = 0 ∧ coh ≤ 65535 ∧
      (phSum vs).1.toNat = coh * 65536 + atan2Code Y X % 32768 * 2 + 1 ∧
      (1 ≤ coh → ((2 * coh - 1 : Int) * n) ^ 2 ≤ 64 * (X * X + Y * Y)) ∧
      (coh < 65535 → 64 * (X * X + Y * Y) ≤ ((2 * coh + 1 : Int) * n) ^ 2)))

/-- The transposer: where each element of d comes from in a, in 8 ticks with 4 of occupancy. -/
def Obligations.Transposes : Prop :=
  ∀ (g : Guard) (d a : TileOp) (w : BitVec 2) (s : State), w ≠ 3 → s.unitStop .transposer = none →
    let n := 2 ^ w.toNat
    let bits := 32 / n
    let E := 64 * n
    let el (t : TileOp) (c : Nat → W32) (y p : Nat) : Nat := (c (laneNo t.tile y (p / n))).toNat / 2 ^ (bits * (p % n)) % 2 ^ bits
    let does (i : Instr) (src : Nat → Nat → Nat × Nat) : Prop :=
      ∃ vs, exec i s = .next (s.when g fun u => (u.occupy .transposer 4).pendAt (s.cur.tick + 8) .transposer (.lanes vs)) ∧
        (∀ e ∈ vs, e.1 / 1024 = d.tile) ∧ ∀ y p, y < 16 → p < E →
          el d (fun l => (writeOf vs l).getD 0) y p = el a s.cur.lane (src y p).1 (src y p).2
    does (.xblk g d a w) (fun y p => (p % 16, p / 16 * 16 + y)) ∧
    does (.xzip g d a w) (fun y p => (y, if p % 2 = 0 then p / 2 else E / 2 + p / 2)) ∧
    does (.xunzip g d a w) (fun y p => (y, if p < E / 2 then 2 * p else 2 * (p - E / 2) + 1)) ∧
    does (.xcol g d a w) (fun y p => ((y * E + p) % 16, (y * E + p) / 16)) ∧
    (∀ i ∈ ([.xblk g d a w, .xzip g d a w, .xunzip g d a w, .xcol g d a w] : List Instr), ∀ u : State,
      u.unitStop .transposer = some (.trap ⟨0x04, 2, 0⟩ u.iss.slot) → u.guard g = true → exec i u = .next (u.faulted 0x04 2 0))

/-- Tile loads and stores: bytes of AB at s[j] + 64·offset, little-endian lanes, 6 or 10 ticks; tags, alignment and windows
are checked first; the quantising forms pack and unpack f.DF. -/
def Obligations.TileMemory : Prop :=
  ∀ (sl : VWSlot) (g : Guard) (t : TileOp) (j : SReg) (off : BitVec 7) (tag : BitVec 16) (x : Option W32) (s : State),
    Shape.mem t = true →
    let f := s.cur.f
    let whole := t.dir == .whole
    let lat := if whole then 10 else 6
    let lanes := if whole then 1024 else 64
    let base (x : Option W32) : Nat :=
      (BitVec.ofInt 64 ((s.s j).toInt + 64 * (match x with | none => off.toInt | some e => e.toInt))).toNat
    let A := base x
    let ls := s.cur.lanesD t none
    let claims (n : Nat) : List (Nat × Nat) := if whole then (List.range 8).map fun i => (s.cur.tick + i, 512) else [(s.cur.tick, n)]
    let load (n : Nat) (r : List W32 × Flags) : Res := .next (s.when g fun u =>
      ((u.claimAb (claims n)).after lat (.lanes (ls.zip r.1))).writeFlags lat r.2)
    let store (n : Nat) (r : List Byte × Flags) : Res := .next (s.when g fun u =>
      ((u.claimAb (claims n)).after lat (.ab A r.1)).writeFlags lat r.2)
    let ok (A n align : Nat) (read : Bool) (tg : Option (BitVec 16)) : Prop := s.tmStop t A n align read tg = none
    let bytes (A n : Nat) : List Byte := s.abBytes A n
    let raw (A : Nat) : List W32 × Flags := ((List.range lanes).map fun i => BitVec.ofNat 32 (leAt (bytes A (4 * lanes)) (4 * i) 4), 0)
    (ok A (4 * lanes) 64 true none → exec (.vld sl g t j off x) s = load (4 * lanes) (raw A)) ∧
    (ok (base none) (4 * lanes) 64 true (some tag) →
      exec (.vldT sl g t j off tag) s = load (4 * lanes) (raw (base none))) ∧
    (ok A (4 * lanes) 64 false none → exec (.vst sl g t j off x) s =
      store (4 * lanes) ((s.cur.lanes ls).flatMap fun v => leBytes 4 v.toNat, 0)) ∧
    ((fVE f = 0 ∨ fVE f = 4) →
      let q := quantBytes f (s.cur.lanes ls)
      let n := dfBytes (fDF f) lanes
      (ok A q.1.length (dfAlign (fDF f)) false none → exec (.vqst sl g t j off x) s = store q.1.length q) ∧
      (ok A n (dfAlign (fDF f)) true none → exec (.vdql sl g t j off x) s = load n (dequantLanes f lanes (bytes A n))) ∧
      (ok (base none) n (dfAlign (fDF f)) true (some tag) → exec (.vdqlT sl g t j off tag) s =
        load n (dequantLanes f lanes (bytes (base none) n)))) ∧
    (s.guard g = true →
      (A % 64 ≠ 0 → ∀ i ∈ ([.vld sl g t j off x, .vst sl g t j off x] : List Instr),
        exec i s = .next (s.faulted 0x05 3 (BitVec.ofNat 64 A))) ∧
      (A % 64 = 0 → inWindow s.cur.winAb A (4 * lanes) = false → ∀ i ∈ ([.vld sl g t j off x, .vst sl g t j off x] : List Instr),
        exec i s = .next (s.faulted 0x07 2 (BitVec.ofNat 64 (firstOut s.cur.winAb A)))) ∧
      (base none % 64 = 0 → inWindow s.cur.winAb (base none) (4 * lanes) = true →
        (∃ b, base none / 1024 ≤ b ∧ b ≤ (base none + 4 * lanes - 1) / 1024 ∧
          Map.get 0 (s.core (coreOf s.iss.cx)).bays b ≠ tag.toNat) →
        exec (.vldT sl g t j off tag) s = .next (s.faulted 0x03 1 0)) ∧
      (fVE f ≠ 0 → fVE f ≠ 4 → ∀ i ∈ ([.vqst sl g t j off x, .vdql sl g t j off x, .vdqlT sl g t j off tag] : List Instr),
        exec i s = .next (s.faulted 0x01 2 0)))

/-- The frame of tile ops: pending lanes of the one tile d and flags, or for the storing forms pending bytes at the address
they compute; occupancies, port claims and ready ticks of the issuing context; every byte of memory reads as before. -/
def Obligations.TileFrame : Prop :=
  ∀ (sl : VWSlot) (g : Guard) (d a b : TileOp) (bs : BitVec 1) (w : BitVec 2) (x : Option TExt) (e : TExt) (j : SReg)
    (off : BitVec 7) (tag : BitVec 16) (y : Option W32) (s t : State), s.iss.stopped = none → t.iss.stopped = none →
    let mem : Prop := ∀ m, t.byte m = s.byte m
    let lanes (act : Act) : Prop := WritesTile d act ∨ WritesFlags act
    (∀ i ∈ ([.vadd sl g d a b bs x, .vsub sl g d a b bs x, .vmul sl g d a b bs x, .vfma sl g d a b bs x, .vmax sl g d a b bs x,
        .vmin sl g d a b bs x, .vabs sl g d a x, .vneg sl g d a x, .vand sl g d a b bs x, .vor sl g d a b bs x,
        .vxor sl g d a b bs x, .vshl sl g d a b bs x, .vshr sl g d a b bs x, .vsar sl g d a b bs x, .vcmp sl g d a b bs e,
        .vsel sl g d a b bs x, .vmov sl g d a x, .vcvt sl g d a e, .vbcy sl g d a e, .vbcx sl g d a e, .vrolx sl g d a e,
        .vroly sl g d a e, .vsumx sl g d a x, .vsumy sl g d a x, .vmaxx sl g d a x, .vmaxy sl g d a x, .vargx sl g d a x,
        .vscanx sl g d a x, .viota sl g d x, .vexp2 g d a x, .vlog2 g d a x, .vrcp g d a x, .vrsqrt g d a x,
        .vperm g d a b x, .phMul g d a b bs x, .phDiv g d a b bs x, .phPow g d a b bs x, .phCmp g d a b bs x, .phSumx g d a x,
        .phSumy g d a x, .phRot g d a b x, .phFrom g d a x, .phCvt g d a x, .phCos g d a x, .phSin g d a x,
        .xblk g d a w, .xzip g d a w, .xunzip g d a w, .xcol g d a w] : List Instr),
      exec i s = .next t → CurOnly s t UnitsOnly ∧ NewPends s.cur t.cur lanes ∧ mem) ∧
    (∀ i ∈ ([.vld sl g d j off y, .vldT sl g d j off tag, .vdql sl g d j off y, .vdqlT sl g d j off tag] : List Instr),
      exec i s = .next t → CurOnly s t AbOnly ∧ NewPends s.cur t.cur lanes ∧ mem) ∧
    (∀ i ∈ ([.vst sl g d j off y, .vqst sl g d j off y] : List Instr), exec i s = .next t →
      CurOnly s t AbOnly ∧ mem ∧
      NewPends s.cur t.cur (fun act => WritesFlags act ∨ ∃ bs, act = .ab (s.tmAddr j off y) bs ∧
        bs.length ≤ if d.dir = .whole then 4096 else 256))

/-- WLD and SMO: a block that passes the checks stands in the shadow bank, ready after max(64, 8 + ceil(B/256)) ticks; SMO, and
WLD under f.SM, scale it by the vector read at issue. The block holds the bytes of its image as they stand at issue (log entry
41, DEDUCED). The block's values: the kept positions of each column, in ascending order. -/
def Obligations.WeightBlocks : Prop :=
  ∀ (g : Guard) (s : State),
    let c := s.cur
    let f := c.f
    let core := coreOf s.iss.cx
    let a := (c.mpr 0).toNat
    let vec := (c.mpr 1).toNat
    let n := 96 * groupsOf (fMB f) (fSP f)
    let size := imageBytes (fMB f) (fSP f)
    let img := s.bytes (wbKey core a) size
    let till := c.tick + Nat.max 64 (8 + (size + 255) / 256)
    let bank (sc : Option (List W32)) : Bank := ⟨fMB f, fSP f, img, sc, till, badMask img (fMB f) (fSP f) a⟩
    let busy := Map.put c.busy (fuNum .decompressor) till
    (legalMul f → a % 16 = 0 → inWindow c.winWb a size = true →
      byteAt img 0 = fMB f → byteAt img 1 = fSP f → leAt img 2 2 = groupsOf (fMB f) (fSP f) → leAt img 4 12 = 0 →
      s.unitStop .decompressor = none → (∀ r ∈ c.mmas, r.bank = c.active ∨ r.last ≤ c.tick) →
      (fSM f = false → ∃ t, exec (.wld g 0) s = .next t ∧ (s.guard g = false → t = s) ∧
        (s.guard g = true → CurOnly s t fun c d => d = { c.setShadow (bank none) with busy := busy })) ∧
      (fMB f = 1 → vec % 4 = 0 → inWindow c.winAb vec n = true → c.notReady vec n = false →
        (∀ i, i < (n + 255) / 256 → Map.get 0 c.abClaim (c.tick + i) ≤ 256) →
        ∀ i ∈ (if fSM f then [.wld g 0, .smo g 0] else [.smo g 0] : List Instr), ∃ t, exec i s = .next t ∧
          (s.guard g = false → t = s) ∧
          (s.guard g = true → CurOnly s t fun c d =>
            d = { c.setShadow (bank (some (wordsOf (s.abBytes vec n)))) with busy := busy, abClaim := d.abClaim } ∧
            ∀ k, Map.get 0 d.abClaim k =
              Map.get 0 c.abClaim k + if c.tick ≤ k ∧ k < c.tick + (n + 255) / 256 then 256 else 0))) ∧
    (∀ (b : Bank) (col j : Nat), b.img ≠ [] → b.sp ≤ 4 → col < 128 → j < b.k →
      let kept := (List.range 24).filter fun p => b.sp = 0 ∨ leAt b.img (16 + 3 * (128 * (j / 24) + col)) 3 / 2 ^ p % 2 = 1
      let rank := (kept.filter (· < j % 24)).length
      ((∃ w, (j, w) ∈ b.column col) ↔ j % 24 ∈ kept) ∧
      (j % 24 ∈ kept → (j, b.smooth j (b.value ((j / 24 * 128 + col) * keptOf b.sp + rank))) ∈ b.column col))

/-- MMA: M rows enter every ρ ticks into the bank in use; row m is fetched at t + ρ·m, its accumulators are read at
t + 31 + ρ·m, and MMA_DONE counts at the last; SWAP makes the shadow bank active, and is refused while it is not ready or the
old bank is needed. -/
def Obligations.MatrixProduct : Prop :=
  ∀ (g : Guard) (imm : BitVec 16) (s : State),
    let c := s.cur
    let f := c.f
    let t := c.tick
    let m := imm.toNat % 256 + 1
    let swap := imm.getLsbD 8
    let one : Bool := c.active != swap
    let bank := c.bankOf one
    let n := aBytes (fMA f) bank.k
    let rho := Nat.max 1 ((n + 383) / 384)
    let a (i : Nat) : Nat := (c.mpr 0 + c.mpr 1 * BitVec.ofNat 64 i).toNat
    let cb (i : Nat) : Nat := (c.mpr 2 + 512 * BitVec.ofNat 64 i).toNat
    let sound : Prop := legalMul f ∧ imm.toNat < 1024 ∧ (c.mpr 0).toNat % aAlign (fMA f) = 0 ∧
      (c.mpr 1).toNat % aAlign (fMA f) = 0 ∧ (c.mpr 2).toNat % 512 = 0 ∧
      (∀ i, i < m → inWindow c.winAb (a i) n = true ∧ inWindow c.winCb (cb i) 512 = true) ∧ c.notReady (a 0) n = false ∧
      s.unitStop .array = none
    let kept : Prop := swap = true → bank.ready ≤ t ∧ ∀ r ∈ c.mmas, r.bank = c.active → r.enter ≤ t
    (s.guard g = false → exec (.mma g imm) s = .next s) ∧
    (sound → kept → bank.bad = none → (∀ i, i < m → Map.get 0 c.cbClaim (t + 31 + rho * i) ≤ 512) →
      (∀ i, i < rho * m → Map.get 0 c.abClaim (t + i) + (n + rho - 1) / rho ≤ 512) → s.guard g = true →
      ∃ u, exec (.mma g imm) s = .next u ∧ u = { s with ctxs := u.ctxs, nextId := s.nextId + 1 } ∧
        (∀ x, x ≠ s.iss.cx → u.ctx x = s.ctx x) ∧
        let d := u.cur
        let has (land : Nat) (act : Act) : Prop := ∃ p ∈ d.pend, p.land = land ∧ p.fu = .array ∧ p.act = act
        d = { c with pend := d.pend, busy := Map.put c.busy (fuNum .array) (t + rho * m), abClaim := d.abClaim,
                     cbClaim := d.cbClaim, active := one,
                     mmas := c.mmas ++ [⟨s.nextId, (c.mpr 2).toNat, m, t + 32 + rho * (m - 1), one, t + rho * (m - 1), []⟩] } ∧
        has (t + 31) (.mmaAcc s.nextId (s.abBytes (a 0) n) (fMA f) (cb 0) (imm.getLsbD 9) one) ∧
        (∀ i, 0 < i → i < m → has (t + rho * i) (.mmaFetch s.nextId (a i) n (fMA f) (cb i) (imm.getLsbD 9) one)) ∧
        has (t + 32 + rho * (m - 1)) .mmaDone ∧
        (∀ i, i < m → Map.get 0 d.cbClaim (t + 31 + rho * i) = Map.get 0 c.cbClaim (t + 31 + rho * i) + 512) ∧
        (∀ i, i < rho * m → Map.get 0 d.abClaim (t + i) = Map.get 0 c.abClaim (t + i) + (n + rho - 1) / rho)) ∧
    (sound → s.guard g = true →
      (¬kept → exec (.mma g imm) s = .next (s.faulted 0x04 2 0) ∨ swap = true ∧ bank.ready ≤ t ∧ bank.bad ≠ none) ∧
      (∀ b, (swap = true → bank.ready ≤ t) → bank.bad = some b →
        exec (.mma g imm) s = .next (s.faulted 0x07 3 (BitVec.ofNat 64 b))))

/-- What the rows of MMA, ROT and DRN do on their ticks: a row of A is read and, 31 ticks on, every accumulator of its CB row
takes the sum of its kept products, rounded once; ROT's sums over groups of 32, 64 or 128 with the signs of the Hadamard
matrix; DRN's conversion of v × σ; and what lands of them. -/
def Obligations.MatrixRows : Prop :=
  ∀ (s : State) (cx : Nat) (p : Pend) (id a n ma cb k df : Nat) (row bs : List Byte) (fresh bank : Bool) (sigma f : W32) (v : Word),
    s.landing? cx = true → (s.ctx cx).due = [p] →
    let core := coreOf cx
    let adds (land : Nat) (ok : Act → Prop) : Prop :=
      ∃ t q, exec (.resultLand cx) s = .next t ∧ q ∈ (t.ctx cx).pend ∧ q.land = p.land + land ∧ q.seq = p.seq ∧ ok q.act
    let fp (r : List Byte) (i : Nat) : Exact := decodeNum fp32 false (leAt r (4 * i) 4)
    let cell (r : List Byte) (w i : Nat) (x : Nat) : Prop := (r.drop (w * i)).take w = leBytes w x
    let old := s.bytes (cbKey core cb) 512
    (p.act = .mmaFetch id a n ma cb fresh bank → adds 31 (· = .mmaAcc id (s.bytes (abKey core a) n) ma cb fresh bank)) ∧
    (p.act = .mmaAcc id row ma cb fresh bank → adds 1 fun x => ∃ r, x = .cb cb r ∧ r.length = 512 ∧ ∀ i, i < 128 →
      cell r 4 i (encodeNum fp32 rne (sumNums false ((if fresh then .fin false 0 1 else fp old i) ::
        (((s.ctx cx).bankOf bank).column i).map fun e => (aElem ma row e.1).mul e.2))).1) ∧
    (p.act = .rotRow cb k → k ∈ [32, 64, 128] → adds 32 fun x => ∃ r, x = .cb cb r ∧ r.length = 512 ∧ ∀ i, i < 128 →
      cell r 4 i (encodeNum fp32 rne (sumNums false ((List.range k).map fun j =>
        let e := fp old (i / k * k + j)
        if popGo (BitVec.ofNat 64 (i % k &&& j)) 64 % 2 = 1 then e.negate else e))).1) ∧
    (p.act = .rotRow cb 0 → adds 32 (· = .cb cb old)) ∧
    (p.act = .drnRow cb a sigma df f → adds 12 fun x => ∃ r, x = .ab a r ∧
      ∀ e, elemOf df = e → (∀ b, e ≠ .bx b) → ∀ i, i < 128 →
        cell r (e.width / 8) i (e.encode (rndOf f) ((fp old i).mul (decodeNum fp32 false sigma.toNat))).1) ∧
    (p.act = .cb cb bs ∨ p.act = .ab cb bs ∧ (s.ctx cx).abTop = [] → ∃ t, exec (.resultLand cx) s = .next t ∧ ∀ i,
      let base := if p.act = .cb cb bs then cbKey core cb else abKey core cb
      t.byte i = if base ≤ i ∧ i < base + bs.length then bs.getD (i - base) 0 else s.byte i) ∧
    (p.act = .mmaDone → ∃ t, exec (.resultLand cx) s = .next t ∧
      (t.ctx cx).mmaDone = ((s.ctx cx).mmaDone + 1) % 2 ^ 64 ∧ t.mem = s.mem) ∧
    (p.act = .mp k v → ∃ t, exec (.resultLand cx) s = .next t ∧ (t.ctx cx).mpr k = v ∧ t.mem = s.mem)

/-- ROT, DRN and ZRO at issue: the rows they will read or write, their unit's occupancy, their port claims, and for DRN the
ready ticks of the AB rows it writes.
Parameters, snapshots and `mcall`: a routine that is not loaded faults, and the faults and results of one that is are the
model's own free values (log entry 12); `msnap` takes lines of CB as they stood before the MMA in flight
and the count of MMAs that are done, and faults on a line outside the window. -/
def Obligations.MatrixPasses : Prop :=
  (∀ (g : Guard) (imm : BitVec 16) (s : State),
    let c := s.cur
    let f := c.f
    let t := c.tick
    let m := imm.toNat % 256 + 1
    let a (i : Nat) : Nat := (c.mpr 0 + c.mpr 1 * BitVec.ofNat 64 i).toNat
    let cb (i : Nat) : Nat := (c.mpr 2 + 512 * BitVec.ofNat 64 i).toNat
    let old (i : Nat) : List Byte := s.bytes (cbKey (coreOf s.iss.cx) (cb i)) 512
    let k := if fHD f = 0 then 0 else if fHD f = 1 then 32 else if fHD f = 2 then 64 else 128
    let df := fDF f
    let n := dfBytes df 128
    let sigma := (c.mpr 3).extractLsb' 0 32
    let sound : Prop := legalMul f ∧ imm.toNat < 256 ∧ (c.mpr 2).toNat % 512 = 0 ∧ ∀ i, i < m → inWindow c.winCb (cb i) 512 = true
    let cbFree (from' bytes len : Nat) : Prop := ∀ i, i < len → Map.get 0 c.cbClaim (from' + i) + bytes ≤ 1024
    let does (i : Instr) (fu : Fu) (occ : Nat) (ok : Ctx → (Nat → Act → Prop) → Prop) : Prop :=
      ∃ u, exec i s = .next u ∧ (s.guard g = false → u = s) ∧
        (s.guard g = true → CurOnly s u fun c d =>
          d = { c with pend := d.pend, busy := Map.put c.busy (fuNum fu) (t + occ), abClaim := d.abClaim, cbClaim := d.cbClaim,
                       rdy := d.rdy } ∧
          ok d fun land act => ∃ p ∈ d.pend, p.land = land ∧ p.fu = fu ∧ p.act = act)
    (sound → s.unitStop .array = none →
      (∀ k, Map.get 0 c.cbClaim k + (if t ≤ k ∧ k < t + m then 512 else 0) +
        (if t + 31 ≤ k ∧ k < t + 31 + m then 512 else 0) ≤ 1024 ∨ ¬(t ≤ k ∧ k < t + m ∨ t + 31 ≤ k ∧ k < t + 31 + m)) →
      does (.rot g imm) .array m fun d has => has (t + 32) (.cb (cb 0) (rotRowBytes k (old 0))) ∧
        (∀ i, 0 < i → i < m → has (t + i) (.rotRow (cb i) k)) ∧ d.rdy = c.rdy ∧ d.abClaim = c.abClaim) ∧
    (sound → s.unitStop .converter = none → (c.mpr 0).toNat % dfAlign df = 0 → (c.mpr 1).toNat % dfAlign df = 0 →
      (∀ i, i < m → inWindow c.winAb (a i) n = true) → cbFree t 512 m →
      (∀ i, i < m → Map.get 0 c.abClaim (t + 11 + i) + n ≤ 512) →
      does (.drn g imm) .converter m fun d has => has (t + 12) (.ab (a 0) (drnRowBytes f df sigma (old 0))) ∧
        (∀ i, 0 < i → i < m → has (t + i) (.drnRow (cb i) (a i) sigma df f)) ∧
        (∀ r i, i < m → a i / 256 ≤ r → r ≤ (a i + n - 1) / 256 → (∀ l, i < l → l < m → ¬(a l / 256 ≤ r ∧ r ≤ (a l + n - 1) / 256)) →
          Map.get 0 d.rdy r = t + 12 + i) ∧
        (∀ r, (∀ l, l < m → ¬(a l / 256 ≤ r ∧ r ≤ (a l + n - 1) / 256)) → Map.get 0 d.rdy r = Map.get 0 c.rdy r)) ∧
    (sound → s.unitStop .cbPort = none → cbFree t 1024 ((m + 1) / 2) →
      does (.zro g imm) .cbPort ((m + 1) / 2) fun d has =>
        (∀ i, i < m → has (t + 1 + i / 2) (.cb (cb i) (List.replicate 512 0))) ∧ d.rdy = c.rdy ∧ d.abClaim = c.abClaim) ∧
    (s.guard g = true → ∀ i ∈ ([.wld g imm, .smo g imm, .mma g imm, .rot g imm, .drn g imm, .zro g imm] : List Instr),
      ¬legalMul f → exec i s = .next (s.faulted 0x01 2 0)) ∧
    (s.guard g = true → legalMul f → imm.toNat < 256 → (c.mpr 2).toNat % 512 ≠ 0 →
      exec (.rot g imm) s = .next (s.faulted 0x05 3 (c.mpr 2)) ∧ exec (.zro g imm) s = .next (s.faulted 0x05 3 (c.mpr 2)))) ∧
  (∀ (g : Guard) (n : BitVec 3) (j : SReg) (t : TileOp) (h : BitVec 9) (routine : BitVec 6) (imm : BitVec 16) (s : State),
    let c := s.cur
    let now := c.tick
    let whole := t.dir == .whole
    let idx := c.tileIndex t none
    let lines := if whole then (List.range 16).map (16 * h.toNat + ·) else [16 * h.toNat + idx % 16]
    let claims := if whole then (List.range 8).map fun i => (now + i, 512) else [(now, 256)]
    let lat := if whole then 10 else 6
    let before (row : Nat) : List Byte := match c.mmas.find? fun r => now < r.last && r.cb ≤ row && row < r.cb + 512 * r.rows with
      | some r => if Map.get [] r.old row = [] then s.bytes (cbKey (coreOf s.iss.cx) row) 512 else Map.get [] r.old row
      | none => s.bytes (cbKey (coreOf s.iss.cx) row) 512
    let fits : Prop := ∀ l ∈ lines, inWindow c.winCb (256 * l) 256 = true
    exec (.mpset g n j) s = .next (s.when g (·.after 1 (.mp n.toNat (s.s j)))) ∧
    exec (.mpget g n j) s = .next (s.wrote g 1 j (c.mpr n.toNat)) ∧
    (t.dir = .whole ∨ t.dir = .row → fits → (∀ e ∈ claims, Map.get 0 c.cbClaim e.1 + e.2 ≤ 1024) →
      ∃ vs, exec (.msnap g t j h) s = .next (s.when g fun u =>
          ((u.claimCb claims).after lat (.lanes vs)).writeS lat j (BitVec.ofNat 64 c.mmaDone)) ∧
        (∀ e ∈ vs, e.1 / 1024 = t.tile) ∧
        ∀ y x, y < 16 → x < 64 → writeOf vs (laneNo t.tile y x) = if covers t idx y x then
            some ((wordsOf ((before (512 * ((16 * h.toNat + y) / 2))).drop (256 * ((16 * h.toNat + y) % 2)))).getD x 0)
          else none) ∧
    (t.dir = .whole ∨ t.dir = .row → s.guard g = true → ∀ l, lines.find? (fun l => !inWindow c.winCb (256 * l) 256) = some l →
      exec (.msnap g t j h) s = .next (s.faulted 0x07 2 (BitVec.ofNat 64 (firstOut c.winCb (256 * l))))) ∧
    (s.guard g = false → exec (.mcall g routine imm) s = .next s) ∧
    (s.guard g = true → exec (.mcall g routine imm) s =
      .next (if Config.microcodeLoaded s.fwHeader routine.toNat = true ∧ 6 ≤ routine.toNat then s.startLoaded routine.toNat imm
        else s.faulted 0x01 1 0)) ∧
    (legalMul c.f → s.unitStop .array = none → let mps := (List.range 8).map c.mpr
      let out := Config.routineResults s.fwHeader routine.toNat mps imm c.f
      let u := s.startLoaded routine.toNat imm
      Config.routineFault s.fwHeader routine.toNat mps imm c.f ≠ none ∨
      (∃ e ∈ out, inWindow (if e.2.1 % 2 = 0 then c.winAb else c.winCb) e.2.2.1 e.2.2.2 = false) ∨
      CurOnly s { u with fresh := s.fresh } UnitsOnly ∧ ∀ e ∈ out, now + e.1 + 1 ≤ Map.get 0 u.cur.busy (fuNum .array) ∧
        ∃ p ∈ u.cur.pend, ∃ bs, bs.length = e.2.2.2 ∧ p.land = now + e.1 + 1 ∧ p.fu = .array ∧
          p.act = if e.2.1 % 2 = 0 then .ab e.2.2.1 bs else .cb e.2.2.1 bs))

/-- Engine commands: one that passes its checks is queued behind the others of its core, is charged if it moves data, at once
or, for what it costs at more than the cheapest tier, when the tier of its memory is known or the command ends, at the rates of
its enqueue (log entry 37), and changes nothing else; a full queue blocks its group. -/
def Obligations.EngineCommands : Prop :=
  ∀ (g : Guard) (j k : SReg) (die lvl : BitVec 2) (n : BitVec 10) (deadline : W32) (fn : BitVec 4) (s : State),
    let c := s.cur
    let cx := s.iss.cx
    let core := coreOf cx
    let a := s.s j
    let b := s.s k
    let inAb (at' len : Nat) : Prop := inWindow c.winAb at' len = true
    -- one command more, a context and a charge besides
    let goes (i : Instr) (cmd : Cmd) (extra : List (Nat × Nat)) (d : Ctx) (u : State) : Prop :=
      ∃ t, exec i s = .next t ∧ (s.guard g = false → t = s) ∧
        (s.guard g = true → s.queues t cmd extra d ∧ t.regs = u.regs ∧ t.pilot = u.pilot)
    let charged (cmd : Cmd) : State := (s.settle (s.rawEntry cmd []) false).1
    (∀ (e : Entry) (o : Owing) (ten : Nat), e.owing = some o → s.payer e = some ten →
      let tiers := e.cmd.places.map fun p => s.tierOf (coreOf e.cx) (some ten) p.1 p.2
      let most := (tiers.filterMap id).foldl Nat.max o.tier
      let least := e.cmd.extent / 2 ^ o.rates.foldl Nat.max 0
      (∀ ends, ends = true ∨ none ∉ tiers →
        s.settle e ends = (s.chargeRest ten most e.cmd.extent o.paid o.rates, { e with owing := none })) ∧
      (none ∈ tiers → s.settle e false = (s.charge ten (least - o.paid),
        { e with owing := some { o with tier := most, paid := Nat.max o.paid least } }))) ∧
    ((s.core core).queue.length < 16 →
      (let bs := s.abSoon cx a.toNat 64
       let blk := blkOf bs
       a.toNat % 64 = 0 → inAb a.toNat 64 → b.toNat % 2 ^ blk.esize = 0 → (∀ e ∈ blk.dims, e.2 % (2 ^ blk.esize : Nat) = 0) →
       rangeFault (blk.low b.toNat) (blk.high b.toNat) = none → inWindow (windowOf c blk.dkind) blk.dbase blk.extent = true →
       inAb blk.lobj 8 → 0 < blk.extent →
       let cmd (op dk : Nat) : Cmd := .bulk op blk.esize dk blk.pol blk.cmask blk.tag blk.lobj blk.dbase blk.dims b.toNat
       (blkBad bs 0 = false → goes (.bld g j k) (cmd 0 blk.dkind) [] c (charged (cmd 0 blk.dkind))) ∧
       (blkBad bs 1 = false → blk.dkind = 0 → goes (.bst g j k) (cmd 1 0) [] c (charged (cmd 1 0))) ∧
       (blkBad bs 2 = false → blk.dkind = 0 → blk.cmask ≠ 0 → (∀ r ∈ receivers core blk.cmask, s.holdsMember cx r = true) →
         goes (.bmc g j k) (cmd 2 0) [] c (charged (cmd 2 0)))) ∧
      (a.toNat % 16 = 0 → b.toNat % 8 = 0 → inAb a.toNat 16 → inAb b.toNat 8 →
        let q := (Map.get 0 c.fsigSeq die.toNat + 1) % 2 ^ 32
        goes (.fsig g die j k) (.fsig die.toNat q a.toNat b.toNat)
          (if s.dieState die.toNat = 0 then [] else s.fsigNeeds cx die.toNat)
          { c with fsigSeq := Map.set 0 c.fsigSeq die.toNat q } s) ∧
      (let m := n.toNat
       let es := (List.range m).map fun i => BitVec.ofNat 64 (leAt (s.abSoon cx a.toNat (8 * m)) (8 * i) 8)
       m ≠ 0 → a.toNat % 8 = 0 → inAb a.toNat (8 * m) → (∀ e ∈ es, e.toNat % 65536 = 0 ∧ canonical e.toNat = true) → b.toNat % 8 = 0 →
       inAb b.toNat 8 → let cmd : Cmd := .mig es b.toNat (c.tick + deadline.toNat)
       goes (.mig g j k n deadline) cmd [] c (charged cmd)) ∧
      ((b = 0 ∨ rangeFault a.toNat (a.toNat + b.toNat - 1) = none) →
        let first := if b = 0 then [] else s.outstanding cx barrierScope
        goes (.wbr g j k) (.range false a.toNat b.toNat) first c s ∧
        goes (.invr g j k) (.range true a.toNat b.toNat) first (if b = 0 then c else
          { c with loadHold := (s.nextId, performed) :: c.loadHold, storeHold := (s.nextId, performed) :: c.storeHold }) s) ∧
      (let bs := s.abSoon cx a.toNat 64
       let src := leAt bs 0 4
       let dst := leAt bs 4 4
       let cnt := leAt bs 8 4
       let w := if byteAt bs 12 = 1 then 2 else 4
       let grp := leAt bs 24 8
       let q := Map.get 0 c.collSeq grp
       a.toNat % 64 = 0 → inAb a.toNat 64 → s.collBad fn.toNat bs = false → src % w = 0 → b.toNat % 8 = 0 → inAb src (cnt * w) →
       inAb dst (cnt * w) → inAb b.toNat 8 →
       goes (.coll g fn j k) (.coll fn.toNat src dst cnt (byteAt bs 12) (byteAt bs 13) (leAt bs 14 2) (leAt bs 16 2) grp b.toNat q)
         (s.outstanding cx (byteAt bs 13)) { c with collSeq := Map.set 0 c.collSeq grp (q + 1) }
         (s.chargeCmd (if byteAt bs 13 = 5 ∧ 1 < leAt bs 14 2 ∧ s.feature fPEER = true then 3 else 0) (cnt * w))) ∧
      goes (.tok g j k) (.tok (a.toNat % 65536) (b.extractLsb' 0 32)) [] c s ∧
      goes (.pref g lvl j k) (.pref lvl.toNat a.toNat b.toNat) [] c s) ∧
    (16 ≤ (s.core core).queue.length → s.guard g = true →
      ∀ i ∈ ([.bld g j k, .bst g j k, .bmc g j k, .fsig g die j k, .mig g j k n deadline, .wbr g j k, .invr g j k, .coll g fn j k,
          .tok g j k, .pref g lvl j k] : List Instr), exec i s = .next (s.halt (.block .queue)))

/-- Landing objects, fences, drains and accounts: `larm` lands on the next tick; a count of zero flips the phase at once;
an arrival subtracts, and the one that brings an armed count to zero flips the phase and disarms; a fence of order 0 does
nothing, one that acquires puts later accesses after the loads not read yet and beyond a core drops its cache, one that releases
holds later stores behind what is outstanding, a full one later loads too, and `drain`, a full fence, freezes the core from the
end of its group until the context's stores have performed.
`acct` reads the balance on some tick of its 200. -/
def Obligations.LandingAndFences : Prop :=
  ∀ (g : Guard) (j k : SReg) (imm : W32) (ord : BitVec 2) (sc : BitVec 3) (s : State),
    let c := s.cur
    let cx := s.iss.cx
    let core := coreOf cx
    let a := (s.s j).toNat
    let arms (i : Instr) (n : Nat) : Prop :=
      (a % 8 = 0 → inWindow c.winAb a 8 = true →
        exec i s = .next (s.when g fun u => u.after 1 (.larm a n))) ∧
      (s.guard g = true → a % 8 ≠ 0 → exec i s = .next (s.faulted 0x05 3 (s.s j))) ∧
      (s.guard g = true → a % 8 = 0 → inWindow c.winAb a 8 = false →
        exec i s = .next (s.faulted 0x07 2 (BitVec.ofNat 64 (firstOut c.winAb a))))
    arms (.larm g j k) ((s.s k).toNat % 2 ^ 32) ∧ arms (.larmImm g j imm) imm.toNat ∧
    (∀ (x : Nat) (p : Pend) (at' n : Nat), n < 2 ^ 32 → s.landing? x = true → (s.ctx x).due = [p] → (s.ctx x).abTop = [] →
      p.act = .larm at' n →
      let phase := (s.num (abKey (coreOf x) at') 8 / 2 ^ 62) % 2
      ∃ t, exec (.resultLand x) s = .next t ∧
        t.num (abKey (coreOf x) at') 8 = (if n = 0 then (1 - phase) * 2 ^ 62 else 2 ^ 63 + phase * 2 ^ 62 + n) ∧
        ∀ m, m < abKey (coreOf x) at' ∨ abKey (coreOf x) at' + 8 ≤ m → t.byte m = s.byte m) ∧
    (∀ (w : Word) (u : Nat), 0 < u → u < 2 ^ 32 →
      let out := (w.toNat % 2 ^ 32 + 2 ^ 32 - u) % 2 ^ 32
      let v := (arriveWord w u).toNat
      v % 2 ^ 32 = out ∧ v / 2 ^ 32 % 2 ^ 30 = w.toNat / 2 ^ 32 % 2 ^ 30 ∧
      (let done : Prop := w.toNat / 2 ^ 63 = 1 ∧ out = 0
       (done → v / 2 ^ 63 = 0 ∧ v / 2 ^ 62 % 2 = 1 - w.toNat / 2 ^ 62 % 2) ∧
       (¬done → v / 2 ^ 62 = w.toNat / 2 ^ 62))) ∧
    (c.engErr = none →
      (ord = 0 ∨ s.guard g = false → exec (.fence g ord sc) s = .next s) ∧
      (s.guard g = true →
        let n := sc.toNat
        let reads := (s.heldOf cx).map fun h => (h.id, performed)
        let acq : Prop := ord = 1 ∨ ord = 3
        let rel : Prop := ord = 2 ∨ ord = 3
        let ids := if n ≤ 1 then reads else s.outstanding cx n
        ∃ t, exec (.fence g ord sc) s = .next t ∧ t.mem = s.mem ∧ t.posted = (if rel then s.askSystem cx n else s).posted ∧
          (t.core core).cache = (if acq ∧ 2 ≤ n then [] else (s.core core).cache) ∧
          (acq → 2 ≤ n → ∀ h ∈ s.heldOf cx, { h with acq := true, scope := Nat.max h.scope n } ∈ (t.core core).held) ∧
          t.cur = { c with storeHold := c.storeHold ++ (if acq then reads else []) ++ (if rel then ids else []),
                           loadHold := c.loadHold ++ (if acq then reads else []) ++ (if ord = 3 then ids else []) }) ∧
      (s.guard g = true →
        let n := sc.toNat
        let ids := ((s.posted.filter fun p => p.cx == cx && p.entry.isNone).map fun p => (p.id, p.stageAt n)) ++ s.engineWaits cx n
        ∃ t, exec (.drain g sc) s = .next t ∧ t.mem = s.mem ∧ t.iss = { s.iss with drain := s.iss.drain ++ ids } ∧
          (t.core core).freeze = (s.core core).freeze ∧ (t.core core).cache = (if 2 ≤ n then [] else (s.core core).cache) ∧
          (∀ i ∈ ids, i ∈ t.cur.loadHold ∧ i ∈ t.cur.storeHold) ∧ ∀ i, i ∈ c.loadHold → i ∈ t.cur.loadHold)) ∧
    (∀ x, let ids := s.open' s.iss.drain
      ((s.drainOn x).core (coreOf x)).freeze = (if ids = [] then (s.core (coreOf x)).freeze else .drain x ids :: (s.core (coreOf x)).freeze)) ∧
    (s.guard g = true → c.engErr ≠ none → ∀ i ∈ ([.fence g ord sc, .drain g sc] : List Instr),
      exec i s = .next (s.halt (.engine s.iss.slot))) ∧
    (s.guard g = true → ∃ t p gap, exec (.acct g j) s = .next t ∧ p ∈ t.cur.pend ∧ p.act = .acct j.toNat gap ∧
      p.land + gap = c.tick + 200 ∧ c.tick < p.land ∧ p.land < c.tick + 200 ∧ t.mem = s.mem) ∧
    (∀ (x : Nat) (p : Pend) (d gap ten : Nat), s.landing? x = true → (s.ctx x).due = [p] → p.act = .acct d gap →
      s.tenantOf x = some ten → ∃ t q, exec (.resultLand x) s = .next t ∧ q ∈ (t.ctx x).pend ∧ q.land = p.land + gap ∧
        q.act = .sreg d (s.reg (rAcctBal ten)))

/-- How commands go on: a piece of a bulk store posts one granule, with the bytes of AB that its elements there read, and a mask of
them; a piece of a bulk load that has come stands in the buffer and its object counts it; `pref` changes no value; Mayfly is handed a token; a
token of `fsig` is formed with the time, and a transit later bears it, its number and the die, and counts one; what has nothing
to send only starts; and what is done leaves the queue. -/
def Obligations.EngineProgress : Prop :=
  ∀ (s : State) (core id : Nat) (e : Entry), s.entry? core id = some e → e.id = id →
    let runs : Prop := e.stopped = false ∧ e.done < e.cmd.total ∧ s.mayGo core e = true
    let at1 (t : State) (f : Entry → Prop) : Prop := ∃ e', t.entry? core id = some e' ∧ f e'
    let s1 := s.setEntry core { e with started := true }
    (e.sent = true → (e.started = true → exec (.landingArrival core id) s = .next s) ∧
      (e.started = false → s.mayGo core e = true → exec (.landingArrival core id) s = .next s1)) ∧
    (runs → ∀ lvl b l, e.cmd = .pref lvl b l → ∃ t, exec (.landingArrival core id) s = .next t ∧ t.mem = s.mem ∧
      at1 t (·.done = 1)) ∧
    (runs → ∀ q tk, e.cmd = .tok q tk → ∃ t, exec (.landingArrival core id) s = .next t ∧ t.mem = s.mem ∧
      (e.started = false → (s.g, .mayflyPost e.crew q tk) ∈ t.agenda) ∧
      (e.started = true → s.untried (.event (.mayflyPost e.crew q tk)) → at1 t (·.done = 1))) ∧
    (runs → ∀ es dk pol cm tag lobj db dims x i ac u, e.cmd = .bulk 1 es dk pol cm tag lobj db dims x → (s.ctx e.cx).abStores = [] →
      let sz := 2 ^ es
      let addr := elemAddr dims (x : Int)
      let js := granElems addr i e.cmd.total
      nextElem addr e.done e.cmd.total = some i → (∀ j ∈ js, (s.ctx e.cx).notReady (db + sz * j) sz = false) →
      s1.checkBy (.bulk core) e.cx 7 (BitVec.ofInt 64 (addr i)) sz (1 + pol) .w false = .ok u ac →
      ∃ t p, exec (.landingArrival core id) s = .next t ∧ t.mem = u.mem ∧ t.posted = u.posted ++ [p] ∧
        p.acc.loc = ac.loc / 64 * 64 ∧ p.acc.frame = ac.frame ∧ p.addr = BitVec.ofInt 64 (addr i) ∧ p.entry = some (core, id) ∧
        p.cx = e.cx ∧ p.units = sz * js.length ∧ at1 t (fun f => f.done = i + 1) ∧
        ((∀ j ∈ js, (addr j % 64).toNat + sz ≤ 64) →
          (∀ j ∈ js, ∀ k ∈ js, j ≠ k → addr j + sz ≤ addr k ∨ addr k + sz ≤ addr j) → ∀ j ∈ js, ∀ b, b < sz →
            let o := (addr j % 64).toNat + b
            hasBit p.mask o = true ∧ p.bytes.getD o 0 = u.byte (abKey core (db + sz * j + b)))) ∧
    (runs → ∀ dk pol cm tag lobj db b st x h, e.cmd = .bulk 0 6 dk pol cm tag lobj db [(b, st)] x → (dk = 1 ∨ dk = 2) → db % 64 = 0 →
      e.carry = [] → e.behind = none → e.landAt ≤ s.g → e.since ≤ s.g → lobj + 8 ≤ 2 ^ 20 → db + 64 * b ≤ 2 ^ 20 → h % 64 = 0 →
      let ac : Access := ⟨h, 64, none, 5, 4⟩
      s1.checkBy (.bulk core) e.cx 7 (BitVec.ofNat 64 (elemAddr [(b, st)] x e.done).toNat) 64 (1 + pol) .r false = .ok s1 ac →
      coreOf e.cx = core → s1.open' (s1.beforeLoad e.cx ac) = [] → s1.forwarded e.cx e.tick ac = [] →
      ∃ t, exec (.landingArrival core id) s = .next t ∧
        (∀ i, i < 64 → t.byte (bufKey core dk (db + 64 * e.done) + i) = s.byte (hostKey h + i)) ∧
        t.landing core lobj = arriveWord (s.landing core lobj) 64 ∧ at1 t (·.done = e.done + 1) ∧
        ∀ m, (m < bufKey core dk (db + 64 * e.done) ∨ bufKey core dk (db + 64 * e.done) + 64 ≤ m) →
          (m < abKey core lobj ∨ abKey core lobj + 8 ≤ m) → t.byte m = s.byte m) ∧
    (∀ d q tok obj, e.cmd = .fsig d q tok obj → e.done ≠ 1 →
      (e.formed = none → s.tokenForms core e d = true → ∃ t k, exec (.fsigToken core id) s = .next t ∧ t.mem = s.mem ∧
        at1 t (fun f => f.formed = some s.timeNs ∧ f.started = true ∧ f.done = e.done) ∧
        (s.g + k, .fsigToken core id) ∈ t.agenda ∧ (if s.dieState d = 0 then 0 else transit d (dieOfCore core)) < k) ∧
      (∀ ns, e.formed = some ns → tok % 16 = 0 → obj + 8 ≤ tok ∨ tok + 16 ≤ obj →
        ∃ t, exec (.fsigToken core id) s = .next t ∧ at1 t (·.done = 1) ∧
          t.num (abKey core tok) 8 = ns % 2 ^ 64 ∧ t.num (abKey core (tok + 8)) 4 = q % 2 ^ 32 ∧
          t.num (abKey core (tok + 12)) 4 = d % 256 ∧ t.landing core obj = arriveWord (s.landing core obj) 1 ∧
          ∀ m, (m < abKey core tok ∨ abKey core tok + 16 ≤ m) → (m < abKey core obj ∨ abKey core obj + 8 ≤ m) → t.byte m = s.byte m)) ∧
    (∃ t, exec (.engineCommandComplete core id) s = .next t ∧
      (s.finished core e = true → t.entry? core id = none) ∧ (s.finished core e = false → t = s))

/-- A collective whose members have all contributed gives each, at its DST, the combination of the contributions in order of
rank along the binary tree over member index, and its object counts the bytes.
The combinations of a collective: a sum rounds to the element's format, or wraps; the others compare or combine bits; an
FP32 sum of 2^24, 1, 1 and −2^24 over four members is 1. -/
def Obligations.Collectives : Prop :=
  (∀ (s : State) (c : Coll) (cr : Crew) (p : Part) (fn et cnt : Nat),
    s.colls.find? (·.id == c.id) = some c → s.crew? c.crew = some cr → cr.c * cr.d = c.parts.length →
    c.parts.Pairwise (fun a b => a.rank < b.rank) → c.parts.head? = some p → (c.parts.map (·.core)).Nodup →
    let w := if et = 1 then 2 else 4
    let vals := c.parts.map fun q => (List.range cnt).map fun i => leAt q.bytes (w * i) w
    let fields (q : Part) (dst lobj : Nat) : Prop := ∃ e src grp sq, s.entry? q.core q.entry = some e ∧
      e.cmd = .coll fn src dst cnt et 4 0 0 grp lobj sq ∧ inWindow (s.ctx e.cx).winAb dst (cnt * w) = true
    (∀ q ∈ c.parts, q.bytes.length = cnt * w ∧ ∃ dst lobj, fields q dst lobj ∧ lobj + 8 ≤ 2 ^ 22) →
    ∃ t, exec (.collResult c.id ⟨0, 0, 0, []⟩) s = .next t ∧ (∀ x ∈ t.colls, x.id ≠ c.id) ∧
      ∀ r, c.parts.length ≤ 2 ^ r →
        let bs := (blockValue (List.zipWith (combine fn et)) vals r 0).flatMap (leBytes w)
        bs.length = cnt * w ∧
        ∀ q ∈ c.parts, ∀ dst lobj, fields q dst lobj → (lobj + 8 ≤ dst ∨ dst + cnt * w ≤ lobj) →
          (∀ i, i < cnt * w → t.byte (abKey q.core (dst + i)) = bs.getD i 0) ∧
          t.landing q.core lobj = arriveWord (s.landing q.core lobj) (cnt * w)) ∧
  ((∀ l r, combine 0 4 l r = (l + r) % 2 ^ 32 ∧ combine 3 4 l r = l &&& r ∧ combine 4 4 l r = l ||| r ∧ combine 5 4 l r = l ^^^ r) ∧
  (∀ l r, l < 2 ^ 32 → r < 2 ^ 32 → toSigned 32 (combine 1 4 l r) = Max.max (toSigned 32 l) (toSigned 32 r) ∧
    toSigned 32 (combine 2 4 l r) = Min.min (toSigned 32 l) (toSigned 32 r)) ∧
  (∀ l r, combine 0 0 l r = (encodeNum fp32 rne ((decodeNum fp32 false l).add false (decodeNum fp32 false r))).1 ∧
    combine 0 1 l r = (encodeNum bf16 rne ((decodeNum bf16 false l).add false (decodeNum bf16 false r))).1) ∧
  blockValue (List.zipWith (combine 0 0)) [[0x4B800000], [0x3F800000], [0x3F800000], [0xCB800000]] 2 0 = [0x3F800000])

/-- Words of a law, for the partition whose slice its tenant held at the frame's start: each writes one register of the running law's bank, or its flag, a request or signal bits, as the table
gives; products round to nearest, ties to even; sums and products saturate; and nothing else of the machine changes. -/
def Obligations.LawWords : Prop :=
  ∀ (s : State) (slot : Nat) (l : Law) (d r t : BitVec 4) (imm : BitVec 19) (n : BitVec 4) (sh : BitVec 5),
    s.running = some (slot, l) →
    let q (x : BitVec 4) : Int := l.q' x
    let im : Int := imm.toInt
    let part : Option Nat := l.tenant.map fun ten =>
      ((List.range 32).find? fun p => Map.get 0 s.bin.snapHold p == ten + 1).getD (s.tenantPart ten)
    let sat (x : Int) : Int := Max.max (-(2 ^ 31)) (Min.min (2 ^ 31 - 1) x)
    let own (u : State) : Prop := u = { s with bin := u.bin } ∧ u.bin.run = s.bin.run ∧ u.bin.hints = s.bin.hints ∧
      u.bin.events = s.bin.events ∧ ∀ x, x ≠ slot → u.lawAt x = s.lawAt x
    let becomes (i : Instr) (ok : State → Prop) (m : Law → Prop) : Prop :=
      ∃ u l', exec i s = .next u ∧ own u ∧ ok u ∧ u.running = some (slot, l') ∧ m l' ∧ l'.code = l.code ∧ l'.params = l.params ∧
        l'.tenant = l.tenant
    let quiet (u : State) : Prop := u.bin.asks = s.bin.asks ∧ u.bin.sigs = s.bin.sigs
    let writes (i : Instr) (v : Int) : Prop := becomes i (fun u => quiet u ∧ u.bin.lawFault = s.bin.lawFault) fun l' =>
      l'.flag = l.flag ∧ ∀ x, l'.q' x = if x = d then v else q x
    let rounds (x y : Int) : Prop := 2 * (65536 * y - x) ≤ 65536 ∧ -65536 ≤ 2 * (65536 * y - x) ∧
      ((2 * (65536 * y - x) = 65536 ∨ 2 * (65536 * y - x) = -65536) → y % 2 = 0)
    writes (.binAdd d r t) (sat (q r + q t)) ∧ writes (.binSub d r t) (sat (q r - q t)) ∧
    (∃ y, rounds (q r * q t) y ∧ writes (.binMul d r t) (sat y)) ∧
    (∃ y, rounds (q r * im) y ∧ writes (.mli d r imm) (sat y)) ∧
    writes (.binShr d r sh) (q r / 2 ^ sh.toNat) ∧ writes (.binMin d r t) (Min.min (q r) (q t)) ∧
    writes (.binMax d r t) (Max.max (q r) (q t)) ∧ (t ≠ 15 → writes (.clp d r t) (Min.min (Max.max (q r) (q t)) (q (t + 1)))) ∧
    writes (.binAbs d r) (sat (q r).natAbs) ∧ writes (.csel d r t) (if l.flag then q r else q t) ∧ writes (.ldi d imm) im ∧
    (∃ v, writes (.ldh d r imm) v ∧ (v % 2 ^ 32).toNat = imm.toNat * 2 ^ 13 + (q r % 2 ^ 13).toNat) ∧
    writes (.prm d n) (l.params.getD n.toNat 0).toInt ∧
    becomes (.cgt r t) (fun u => quiet u ∧ u.bin.lawFault = s.bin.lawFault) (fun l' => l'.flag = decide (q t < q r) ∧ l'.q = l.q) ∧
    (∃ v, writes (.hnt d imm) v ∧ v = (Map.get (0 : W32) s.bin.snapHint
      (8 * part.getD (imm.toNat / 8 % 32) + imm.toNat % 8)).toInt) ∧
    (let cls := imm.toNat / 2 ^ 16
     let idx := imm.toNat % 2 ^ 16
     let made : Ask := ⟨slot, l.tenant, part, cls, idx, q r⟩
     let lost : Prop := Config.sensorFailed s.bin.frame cls idx = true ∨
       ∃ p, part = some p ∧ sensorRight (s.partHad p) cls idx = false
     (¬lost ∧ (-(2 ^ 31) ≤ s.sense cls idx → s.sense cls idx < 2 ^ 31 → writes (.sen d imm) (s.sense cls idx)) ∨
      lost ∧ becomes (.sen d imm) (fun u => quiet u ∧ ∀ p, p ∈ u.bin.lawFault ↔ p ∈ s.bin.lawFault ∨ part = some p)
       fun l' => l'.flag = l.flag ∧ ∀ x, l'.q' x = if x = d then 0x7FFFFFFF else q x) ∧
     becomes (.ask r imm) (fun u => u.bin.sigs = s.bin.sigs ∧ u.bin.lawFault = s.bin.lawFault ∧ made ∈ u.bin.asks ∧
       ∀ a, a ≠ made → (a ∈ u.bin.asks ↔ a ∈ s.bin.asks ∧ (a.slot, a.kind, a.idx) ≠ (slot, cls, idx))) (· = l)) ∧
    (let bits : BitVec 8 := imm.extractLsb' 0 8
     let taken (p : Nat) : Prop := match part with
       | some x => p = x
       | none => imm.toNat / 2 ^ 13 % 2 = 1 ∧ p < 32 ∨ imm.toNat / 2 ^ 13 % 2 = 0 ∧ p = imm.toNat / 2 ^ 8 % 32
     becomes (.sig r imm) (fun u => u.bin.asks = s.bin.asks ∧ u.bin.lawFault = s.bin.lawFault ∧ ∀ p,
       (q r ≠ 0 ∧ taken p → Map.get 0 u.bin.sigs p = Map.get 0 s.bin.sigs p ||| bits) ∧
       (¬(q r ≠ 0 ∧ taken p) → Map.get 0 u.bin.sigs p = Map.get 0 s.bin.sigs p)) (· = l)) ∧
    exec .bend s = .next { s with bin := { s.bin with run := none } }

/-- The loader: a law that passes the checks is accepted with BUSY set, and stands in its slot from the next frame start, with
RESULT and SLOT; so do an unload and a commit, and an event that takes a tenant's law away, with LAW_FAULT; the first check
that fails decides RESULT and nothing else changes. The snapshot latches the hint words and which tenant holds each slice, none
while a switch is under way; a system law runs in its slot, a tenant's only when its tenant held a slice. A write to the loader
is ignored while the device does not answer there. -/
def Obligations.LawLoading : Prop :=
  ∀ (s : State) (fn : Nat) (v : Word),
    let slot := v.toNat / 2 ^ 16 % 16
    let one (a b c : Bool) : Prop := v.getLsbD 0 = a ∧ v.getLsbD 1 = b ∧ v.getLsbD 2 = c
    let busy := s.regBit (rLawStatus fn) 0
    let code := (List.range 64).map fun i => (s.reg (rLawCode fn i)).extractLsb' 0 32
    let params := (List.range 16).map fun i => (s.reg (rLawParam fn i)).extractLsb' 0 32
    let open' : Prop := s.bootError = 0 ∧ 8 ≤ s.stage
    let taken (i : Instr) (a : LawAct) : Prop := open' → ∃ t, exec i s = .next t ∧ t.bin.acts = s.bin.acts ++ [a] ∧
      t.regBit (rLawStatus fn) 0 = true ∧ t.bin.laws = s.bin.laws
    let refused (r : Nat) : Prop := open' → ∀ i ∈ ([.lawLoad fn v, .lawUnload fn v, .lawParamCommit fn v] : List Instr),
      ∃ t, exec i s = .next t ∧ t.regBits (rLawStatus fn) 15 8 = r ∧ t.bin = s.bin ∧ t.mem = s.mem
    (¬open' → ∀ i ∈ ([.lawLoad fn v, .lawUnload fn v, .lawParamCommit fn v] : List Instr), exec i s = .next s) ∧
    -- a system law, on PF0
    (fn = 0 → busy = false → one true false false → v.getLsbD 3 = false → slot ≤ 1 → ∀ n cyc, s.verifyLaw code none = .ok (n, cyc) →
      taken (.lawLoad fn v) (.load 0 slot ⟨code.take n, params, none, [], false, cyc⟩)) ∧
    (fn = 0 → busy = false → s.lawAt slot ≠ none →
      (one false true false → taken (.lawUnload fn v) (.unload 0 slot)) ∧
      (one false false true → taken (.lawParamCommit fn v) (.params 0 slot params))) ∧
    (busy = true → refused 9) ∧
    (busy = false → v.toNat % 8 ≠ 1 → v.toNat % 8 ≠ 2 → v.toNat % 8 ≠ 4 → refused 4) ∧
    (busy = false → v.toNat % 8 = 1 ∨ v.toNat % 8 = 2 ∨ v.toNat % 8 = 4 → fn ≠ 0 → s.feature fLAWS = false → refused 8) ∧
    (fn = 0 → busy = false → v.toNat % 8 = 2 ∨ v.toNat % 8 = 4 → s.lawAt slot = none → refused 7) ∧
    (fn = 0 → busy = false → one true false false → v.getLsbD 3 = false → slot ≤ 1 → ∀ r, s.verifyLaw code none = .error r → refused r) ∧
    -- at the next frame start
    (s.g % 36000 = 0 → 7 ≤ s.stage → s.bin.snapped ≠ some s.g → ∃ t, exec .frameSnapshot s = .next t ∧
      t.reg rBinFrame = s.reg rBinFrame + 1 ∧ t.bin.snapped = some s.g ∧ t.bin.asks = [] ∧ t.bin.sigs = [] ∧ t.bin.acts = [] ∧
      (∀ k, k < 256 → Map.get 0 t.bin.snapHint k = s.hintSeen k ∧ ((s.part (k / 8)).stage ≠ 3 → s.hintSeen k = Map.get 0 s.bin.hints k)) ∧
      (s.bin.acts = [] → ∀ p, p < 32 → Map.get 0 t.bin.snapHold p =
        if (s.part p).stage = 0 then (match s.curTenant p with | some ten => ten + 1 | none => 0) else 0) ∧
      (∀ sl q l ten, s.bin.acts = [.drop sl q] → s.lawAt sl = some l → l.tenant = some ten → t.lawAt sl = none ∧
        q ∈ t.bin.lawFault ∧ ∀ x, x ≠ sl → t.lawAt x = s.lawAt x) ∧
      (∀ f sl l, s.bin.acts = [.load f sl l] → l.tenant = none → sl < 16 → t.lawAt sl = some l ∧ t.regBits (rLawStatus f) 15 8 = 1 ∧
        t.regBits (rLawStatus f) 23 20 = sl ∧ t.regBit (rLawStatus f) 0 = false ∧ ∀ x, x ≠ sl → t.lawAt x = s.lawAt x) ∧
      (∀ f sl, s.bin.acts = [.unload f sl] → t.lawAt sl = none ∧ t.regBits (rLawStatus f) 15 8 = 2 ∧
        t.regBit (rLawStatus f) 0 = false ∧ ∀ x, x ≠ sl → t.lawAt x = s.lawAt x) ∧
      (∀ f sl ps l, s.bin.acts = [.params f sl ps] → s.lawAt sl = some l → t.lawAt sl = some { l with params := ps } ∧
        t.regBits (rLawStatus f) 15 8 = 3 ∧ t.regBit (rLawStatus f) 0 = false ∧ ∀ x, x ≠ sl → t.lawAt x = s.lawAt x)) ∧
    -- in its slot
    (∀ sl l ten, s.lawAt sl = some l → l.tenant = some ten → (∀ p, p < 32 → Map.get 0 s.bin.snapHold p ≠ ten + 1) →
      exec (.lawSlot sl) s = .next s) ∧
    (∀ sl l, s.g % 36000 = 9 * (64 + 128 * sl) → s.inFrame = true → s.bin.run = none → s.lawAt sl = some l →
      (l.tenant = none ∧ sl < 2 ∨ ∃ ten p, l.tenant = some ten ∧ p < 32 ∧ Map.get 0 s.bin.snapHold p = ten + 1) → ∃ t l', exec (.lawSlot sl) s = .next t ∧ t.bin.run = some (sl, 0) ∧ t.lawAt sl = some l' ∧ l'.flag = false ∧
        ∀ r : BitVec 4, l'.q' r = if r.toNat < 8 then 0 else l.q' r)

/-- Composition and apply: requests that no longer stand are dropped, with LAW_FAULT; a rail's target is the maximum of what asks
for it, within 600 to 950 mV; its voltage moves at most 10 mV toward it; a clock is the least of its request, or else the least
system request, 64 steps without one, of the system's caps, of the V–f limit at the lower rail value and of ENV_CAP; ENV_CAP
falls by 4 once, however many throttles select the partition (log entry 95; which partitions a throttle selects where every
influence is zero is log entry 81's), and else rises by 1 (its new value counts from this composition on: log entry 43); what was composed
takes effect at apply, with the partitions' events. Droop suppresses the edges of a free phase (log entry 27) until it clears; a slice group that goes off writes
back its dirty granules and loses its blocks, and one that is ready serves again. -/
def Obligations.PowerFrames : Prop :=
  ∀ (s : State) (die group : Nat),
    let rs : List (Option Nat × Ask) := (s.bin.asks.filter s.standing).map fun a => (a.part, a)
    let steps (v : Int) : Nat := (Max.max 8 (Min.min 64 (v * 160 / (65536 * 9)))).toNat
    (s.g % 36000 = 9 * 2112 → s.inFrame = true → ∃ t, exec .composition s = .next t ∧ t.mem = s.mem ∧ t.ctxs = s.ctxs ∧
      t.bin.asks = s.bin.asks.filter s.standing ∧
      (∀ a ∈ s.bin.asks, s.standing a = false → ∀ p, a.part = some p → p ∈ t.bin.lawFault) ∧
      (∀ r, r < 24 →
        let top := Map.get 0 t.bin.railMax r
        let tgt := Map.get 0 t.bin.railTgt r
        tgt = (Max.max 600 (Min.min 950 top)).toNat ∧
        (s.railEntries rs r = [] → top = s.regBits rRailDflt 15 0) ∧
        (s.railEntries rs r ≠ [] → (∃ e ∈ s.railEntries rs r, e.1 = top) ∧ ∀ e ∈ s.railEntries rs r, e.1 ≤ top)) ∧
      (∀ c, c < 96 →
        let r := c / 24 * 6 + c % 24 / 4
        let now := s.railMv r
        let tgt := Map.get 0 t.bin.railTgt r
        let next := if now < tgt then Min.min tgt (now + 10) else Max.max tgt (now - 10)
        let cap := Map.get 0 t.bin.capNext c
        let own : Option Int := (s.partOfCluster c).bind fun p => ownAsk rs p 0 c
        let system (kind : Nat) (a : Option Nat × Ask) : Prop := a ∈ rs ∧ a.1 = none ∧ a.2.kind = kind ∧ a.2.idx = c
        let least (kind n : Nat) : Prop := n ≤ 64 ∧ (∀ a, system kind a → n ≤ steps a.2.val) ∧
          (n = 64 ∨ ∃ a, system kind a ∧ n = steps a.2.val)
        (∃ req caps, Map.get 0 t.bin.clkNext c = Min.min (Min.min req caps) (Min.min (vfLimit (c / 24) (Min.min now next)) cap) ∧
          (∀ v, own = some v → req = steps v) ∧ (own = none → least 0 req) ∧ least 1 caps) ∧
        (cap = if s.throttles.any (fun th => th.2.contains (s.ownerOfCluster c)) then Max.max 8 (s.envCap c - 4)
          else Min.min 64 (s.envCap c + 1)))) ∧
    (s.g % 36000 = 9 * 2368 → s.inFrame = true → ∃ t, exec .applyFrame s = .next t ∧ t.mem = s.mem ∧
      (∀ r, r < 24 →
        let now := s.railMv r
        let tgt := Map.get 800 s.bin.railTgt r
        t.railMv r = if now < tgt then Min.min tgt (now + 10) else Max.max tgt (now - 10)) ∧
      (∀ c, c < 96 → t.clk c = Map.get 64 s.bin.clkNext c ∧ t.envCap c = Map.get 64 s.bin.capNext c) ∧
      (∀ p, p < 32 → ∃ bits, Map.get 0 t.bin.events p = Map.get 0 s.bin.events p ||| bits ∧
        (bits.extractLsb' 8 8 = Map.get 0 s.bin.sigs p) ∧ (bits.getLsbD 4 = s.bin.lawFault.contains p) ∧
        (bits.getLsbD 0 = s.bin.clamped.contains p) ∧
        (bits.getLsbD 2 = true ↔ ∃ a ∈ s.bin.asks, a.part = some p ∧ a.kind = 2 ∧ railMvOf a.val < (t.railMv a.idx : Int)) ∧
        bits.extractLsb' 5 3 = 0) ∧ t.bin.lawFault = [] ∧ t.bin.clamped = []) ∧
    (s.g % 36000 ≠ 9 * 2112 ∨ s.inFrame = false → exec .composition s = .next s) ∧
    (s.g % 36000 ≠ 9 * 2368 ∨ s.inFrame = false → exec .applyFrame s = .next s) ∧
    (∃ t, exec (.dieDroop die) s = .next t ∧ t = { s with bin := { s.bin with droop := t.bin.droop, drooped := t.bin.drooped } } ∧
      (∀ d, d ∈ t.bin.droop ↔ d = die ∨ d ∈ s.bin.droop) ∧ ∀ d, d ∈ t.bin.drooped ↔ d = die ∨ d ∈ s.bin.drooped) ∧
    (∃ t, exec (.droopClear die) s = .next t ∧ t = { s with bin := { s.bin with droop := t.bin.droop } } ∧
      ∀ d, d ∈ t.bin.droop ↔ d ≠ die ∧ d ∈ s.bin.droop) ∧
    (∀ core f, dieOfCore core = die → s.clk (clusterOf core) = f → s.g * f / 64 % 4 = Config.droopPhase % 4 →
      die ∈ s.bin.droop → s.edge core = false) ∧
    (let n := 24 * die + group
     (s.gate (96 + n) = 0 ∨ n ∈ s.tier.off → exec (.sliceGroupPowerDown die group) s = .next s) ∧
     (s.gate (96 + n) ≠ 0 → n ∉ s.tier.off → ∃ t, exec (.sliceGroupPowerDown die group) s = .next t ∧ n ∈ t.tier.off ∧
       (∀ e ∈ t.tier.stack, keySliceIdx e.1 / 16 ≠ n) ∧
       ∀ k x, s.tier.stack = [(k, x)] → keySliceIdx k / 16 = n → x.mark = .clean → x.idx < 1024 → let h := (s.frame x.frame).hbm
         h < hbmFrames → s.hbmMarkOf h x.idx = .clean → s.tier.vecMark = [] → (s.frame x.frame).state ≠ .retired → ∀ j, j < 64 → t.byte (hbmKey h (64 * x.idx) + j) =
           if hasBit x.dirty.toNat j = true then x.bytes.getD j 0 else s.byte (hbmKey h (64 * x.idx) + j)) ∧
     (∃ t, exec (.sliceGroupReady die group) s = .next t ∧ t = { s with tier := { s.tier with waking := t.tier.waking } } ∧
       ∀ x, x ∈ t.tier.waking ↔ x ≠ n ∧ x ∈ s.tier.waking))

/-- Resets, boot stages and repairs: a cold reset leaves every memory of the package zero and begins stage 1; a warm one runs
from stage 4, with gates on, ENV_CAP at 64 and hint words zero, unless stages 1 to 3 run or only a cold one restarts the sequence,
when it does nothing (log entry 59); a stage that ends well leads to the next, one that fails holds, names its error and keeps VF
Enable clear (which errors a stage can end with is log entry 60); stage 1 loads the spare lanes; a spare core takes a fenced
number, physical number 95 plus the spares left being the model's choice (log entry 97); a slice's copy ends; a failing core ends
the crews on it; a die retires, once what its frames lack has come, or the write is refused; lanes fail and ports retrain, a spare
lane being there exactly when the group has used none and SPARES_LEFT is not 0 (log entry 78). -/
def Obligations.PackageEvents : Prop :=
  ∀ (s : State) (core die slice port d : Nat) (v : Word) (error dies : BitVec 8) (ok : Bool),
    (∃ t, exec .coldReset s = .next t ∧ t.stage = 1 ∧ t.bootError = 0 ∧ t.g = 0 ∧ t.ctxs = [] ∧ t.posted = [] ∧
      t.pilot.crews = [] ∧ t.bin.laws = [] ∧ t.tripped = false ∧ t.repairs = s.repairs ∧ t.svnMin = s.svnMin ∧
      t.fenced = s.fenced ∧ ((∀ sl q, .drop sl q ∉ s.bin.acts) → ∀ p, p ∈ t.bin.lawFault ↔ ∃ e ∈ s.bin.laws, ∃ n, e.2.tenant = some n ∧ s.tenantPart n = p) ∧
      ∀ k, (t.byte k = if 2 ^ 72 ≤ k ∧ k < 2 ^ 90 then s.byte k else 0)) ∧
    (s.bootError = 0 ∧ s.stage < 4 ∨ s.bootError ∈ [1, 2, 5] → exec .warmReset s = .next s) ∧
    (¬(s.bootError = 0 ∧ s.stage < 4 ∨ s.bootError ∈ [1, 2, 5]) → ∃ t, exec .warmReset s = .next t ∧ t.stage = 4 ∧ t.bootError = 0 ∧ t.ctxs = [] ∧ t.posted = [] ∧ t.tdisp = [] ∧
      t.pilot.crews = [] ∧ t.bin.laws = [] ∧ t.regBit rFeatCommit 0 = false ∧ t.tier.stack = [] ∧ t.repairs = s.repairs ∧
      (∀ i, t.gate i = 0) ∧ (∀ c, t.envCap c = 64) ∧ t.bin.hints = [] ∧ (∀ k, k < 2 ^ 72 → t.byte k = s.byte k) ∧
      ∀ f, f ∈ s.tier.frames.map (·.1) → (s.frame f).placed = true → (t.frame f).state = .scrub) ∧
    (s.bootError = 0 → s.stage < 8 →
      (error.toNat ∈ stageErrors s.stage → ∃ t, exec (.bootStageComplete error dies) s = .next t ∧ t.stage = s.stage ∧
        t.bootError = error.toNat ∧ t.vfOn = 0) ∧
      (error.toNat ∉ stageErrors s.stage →
        (s.stage ≠ 2 → s.stage ≠ 5 → ∃ t, exec (.bootStageComplete error dies) s = .next t ∧ t.stage = s.stage + 1 ∧ t.bootError = 0 ∧
          (s.stage = 1 → t.regBits rUalState 47 44 = Config.spareLanes)) ∧
        (s.stage = 2 → (∃ i, i < 4 ∧ 2 ≤ dies.toNat / 4 ^ i % 4) → ∃ t, exec (.bootStageComplete error dies) s = .next t ∧ t.stage = 3 ∧
          ∀ i, i < 4 → t.dieState i = Min.min 2 (dies.toNat / 4 ^ i % 4)) ∧
        (s.stage = 2 → (∀ i, i < 4 → dies.toNat / 4 ^ i % 4 < 2) → ∃ t, exec (.bootStageComplete error dies) s = .next t ∧
          t.stage = 2 ∧ t.bootError = 5 ∧ t.vfOn = 0) ∧
        (s.stage = 5 → s.fwHeader = [] → ∃ t, exec (.bootStageComplete error dies) s = .next t ∧
          (Config.bootImage = [] → t.stage = 5 ∧ t.bootError = 4)) ∧
        (s.stage = 5 → s.fwHeader ≠ [] → ∃ t, exec (.bootStageComplete error dies) s = .next t ∧ t.stage = 6 ∧ t.bootError = 0))) ∧
    (s.fenced.contains core = true → s.partOfCluster (core / 4) = none → 0 < s.spareCores (core / 96) →
      ∃ t, exec (.spareCoreRemap core) s = .next t ∧ core ∉ t.fenced ∧ Map.get 0 t.remap core = 95 + s.spareCores (core / 96) ∧
        t.spareCores (core / 96) = s.spareCores (core / 96) - 1 ∧ (∀ a, a < 2 ^ 24 → t.byte (bufKey core 0 0 + a) = 0) ∧
        (∀ c, c ≠ core → (c ∈ t.fenced ↔ c ∈ s.fenced))) ∧
    (die < 4 → s.tier.copying.contains (384 * die + slice) = true → ∃ t, exec (.sliceCopyDone die slice) s = .next t ∧
      384 * die + slice ∉ t.tier.copying ∧ Map.get 0 t.tier.disable (384 * die + slice) = 0 ∧
      t.spareSlices die = s.spareSlices die - 1 ∧ t.mem = s.mem) ∧
    (s.fenced.contains core = false → ∃ t, exec (.coreFailure core) s = .next t ∧ core ∈ t.fenced ∧
      ∀ id cr, s.crew? id = some cr → cr.mode ≠ .saved → cr.ending = none → (∃ x ∈ cr.members, x / 4 = core ∧ (s.ctx x).crew = some id) →
        ∃ cr', t.crew? id = some cr' ∧ cr'.ending = some (0x0A, core)) ∧
    (let die := v.toNat % 4
     let fit : Prop := v.toNat / 2 ^ 8 % 2 ^ 8 = 0xD1 ∧ s.feature fRETIRE = true ∧ s.retiring = none ∧ s.dieState die = 2 ∧
       ∃ x, x < 4 ∧ x ≠ die ∧ s.dieState x = 2
     let open' : Prop := s.pfOpen 0x18 = true
     (¬open' → exec (.dieRetirement v) s = .next s) ∧
     (open' → fit → ∃ t, exec (.dieRetirement v) s = .next t ∧ t.retiring = some (die, v.getLsbD 2) ∧ t.regBit rPkgLive 9 = true) ∧
     (open' → ¬fit → ∃ t, exec (.dieRetirement v) s = .next t ∧ t.retiring = s.retiring ∧ t.regBit rPkgLive 10 = true ∧ t.die = s.die)) ∧
    (∀ keep, s.retiring = some (d, keep) → ∃ t, exec (.dieRetirementDone d) s = .next t ∧
      let done : Prop := t.retiring = none ∧ t.dieState d = (if keep then 1 else 0) ∧ t.regBit rPkgLive 9 = false ∧
        ∀ x, x ≠ d → t.dieState x = s.dieState x
      let lacks : Prop := t.retiring = s.retiring ∧ t.die = s.die ∧ t.mem = s.mem ∧ t.tier = s.tier ∧
        ∃ w ∈ t.waits, w.task = .event (.dieRetirementDone d) ∧ w.wants ≠ []
      (done ∨ lacks) ∧ (keep = true ∨ (∀ f, (s.frame f).kind = 0) → done)) ∧
    (port < 36 →
      let group := port / 4
      let left := s.regBits rUalState 47 44
      let spare : Prop := s.laneUsed.contains group = false ∧ left ≠ 0
      let fails (t : State) : Prop := t.regBit rUalState port = false ∧
        (spare → port ∈ t.retrain ∧ group ∈ t.laneUsed ∧ t.regBits rUalState 47 44 = left - 1 ∧ t.portDown = s.portDown) ∧
        (¬spare → port ∈ t.portDown)
      (s.portDown.contains port = false → s.regBit rUalState port = true →
        ∃ t, exec (.laneErrorThreshold port) s = .next t ∧ fails t) ∧
      (s.retrain.contains port = true → ∃ t, exec (.portRetrainDone port ok) s = .next t ∧
        (ok = true → t.regBit rUalState port = true ∧ port ∉ t.retrain) ∧ (ok = false → fails t)))

/-- The host's requests: RAIL_DFLT takes multiples of 5 from 600 to 950; the staging window takes bytes; what is misaligned is
aborted, what a function does not map, its partition having no clusters (log entry 54), is unsupported, and a request of a function in RUN outside its bound stream is an error of
its interface; ranges, tenants (what keeps one mapped is log entry 53), features and firmware loads are checked as their rules give, and a
write that a check refuses sets its bit and changes nothing else; HOST_DISCARD is cleared by the read that returns it. -/
def Obligations.HostWrites : Prop :=
  ∀ (s : State) (fn off size n t : Nat) (v : Word) (bs : List (Option Byte)) (b : Bool), s.bootError = 0 → 8 ≤ s.stage →
    let sent (u : State) (o : Out) : Prop := u.outbox = s.outbox ++ [o] ∧ u.regs = s.regs ∧ u.mem = s.mem
    let mapped : Prop := 1 ≤ fn ∧ fn ≤ s.vfOn ∧ s.partClusters (fn - 1) ≠ 0
    let serves : Prop := fn = 0 ∨ mapped ∧ (s.tdispState fn % 4 ≠ 2 ∨ b = true)
    (∃ u, exec (.registerWrite ⟨0, b⟩ rRailDflt 8 v) s = .next u ∧ u.mem = s.mem ∧
      (let mv := v.toNat % 2 ^ 16
       (600 ≤ mv → mv ≤ 950 → mv % 5 = 0 → (u.reg rRailDflt).toNat = mv) ∧ (¬(600 ≤ mv ∧ mv ≤ 950 ∧ mv % 5 = 0) → u = s))) ∧
    (0x1000000 ≤ off → off < 0x2000000 → s.fwBusy = false → size ≤ 8 → ∃ u, exec (.registerWrite ⟨0, b⟩ off size v) s = .next u ∧
      u.regs = s.regs ∧ ∀ k, u.byte k = if stagingKey (off - 0x1000000) ≤ k ∧ k < stagingKey (off - 0x1000000) + size ∧
        k < stagingKey 0x1000000 then BitVec.ofNat 8 (v.toNat / 256 ^ (k - stagingKey (off - 0x1000000))) else s.byte k) ∧
    (off < 0x1000000 → (size ≠ 4 ∧ size ≠ 8 ∨ off % size ≠ 0) → ∃ u, exec (.registerWrite ⟨0, b⟩ off size v) s = .next u ∧
      sent u (.completion 0 2 [])) ∧
    (fn ≠ 0 → ¬mapped → ∀ i ∈ ([.registerWrite ⟨fn, b⟩ off size v, .hostRecordWrite ⟨fn, b⟩ 2 off bs, .hostDiscardRead ⟨⟨fn, b⟩, off, size⟩,
        .vfMemoryRequest fn 0 off size none b, .vfMemoryRequest fn 4 off size (some bs) b] : List Instr),
      ∃ u, exec i s = .next u ∧ sent u (.completion fn 1 [])) ∧
    (fn ≠ 0 → mapped → s.tdispState fn % 4 = 2 → ∀ i ∈ ([.registerWrite ⟨fn, false⟩ off size v, .hostRecordWrite ⟨fn, false⟩ 2 off bs,
        .hostDiscardRead ⟨⟨fn, false⟩, off, size⟩, .vfMemoryRequest fn 0 off size none false] : List Instr),
      ∃ u, exec i s = .next u ∧ u.tdispState fn = (if s.tdispState fn < 4 then 3 else 7) ∧ .completion fn 1 [] ∈ u.outbox) ∧
    (fn ≠ 0 → serves → ∃ u, exec (.vfMemoryRequest fn 0 0x980 8 none b) s = .next u ∧
      sent u (.completion fn 0 (leBytes 8 (Map.get 0 s.bin.events (fn - 1)).toNat))) ∧
    (n < 32 → s.partFrozen n = false → v.getLsbD 63 = false →
      let b := v.toNat % 2 ^ 16
      let c := v.toNat / 2 ^ 16 % 2 ^ 17
      let fit : Prop := b + c ≤ 65536 ∧ (∀ q, q < 32 → q ≠ n → (s.seqRange q).2 = 0 ∨ c = 0 ∨ (s.seqRange q).1 + (s.seqRange q).2 ≤ b ∨
        b + c ≤ (s.seqRange q).1) ∧ (∀ i ∈ s.seqsIn n 1 ++ s.seqsIn n 2, b ≤ i ∧ i < b + c)
      ∃ u, exec (.seqRangeWrite n v) s = .next u ∧ u.mem = s.mem ∧ (fit → u.seqRange n = (b, c)) ∧
        (¬fit → u.seqRange n = s.seqRange n ∧ u.regBit (rSeqRange n) 63 = true)) ∧
    (t < 64 → v.getLsbD 62 = false →
      let part := v.toNat / 2 ^ 32 % 32
      let pasid := v.toNat % 2 ^ 20
      let used : Prop := ∃ x, x < 64 ∧ x ≠ t ∧ s.tenantValid x = true ∧ s.tenantPasid x = pasid
      (v.getLsbD 63 = true → s.tenantValid t = false → s.partFrozen part = false → ∃ u, exec (.tenantMapWrite t v) s = .next u ∧
        u.mem = s.mem ∧ (¬used → u.tenantValid t = true ∧ u.tenantPart t = part ∧ u.tenantPasid t = pasid) ∧
        (used → u.tenantValid t = false ∧ u.regBit (rTenantMap t) 62 = true)) ∧
      (v.getLsbD 63 = false → s.tenantValid t = true → s.partFrozen (s.tenantPart t) = false → ∃ u, exec (.tenantMapWrite t v) s = .next u ∧
        (s.tenantHolds t = false → u.tenantValid t = false ∧ ∀ e ∈ u.bin.laws, e.2.tenant = some t → .drop e.1 (s.tenantPart t) ∈ u.bin.acts) ∧
        (s.tenantHolds t = true → u.tenantValid t = true ∧ u.regBit (rTenantMap t) 62 = true))) ∧
    (∃ u, exec (.featCommit v) s = .next u ∧
      (v.getLsbD 0 = true → s.committed = false → u.committed = true ∧
        u.reg rFeatAcceptLo = s.reg rFeatAcceptLo &&& Config.featOffer.setWidth 64 ∧ u.reg rFeatAcceptHi = 0) ∧
      (v.getLsbD 0 = false ∨ s.committed = true → u = s)) ∧
    (v.toNat / 2 ^ 8 % 2 ^ 8 = 0xF7 →
      (v.getLsbD 0 = true → v.getLsbD 1 = false → ∃ u, exec (.fwGo v) s = .next u ∧ u.fwBusy = true ∧
        (s.fwBusy = true → u.regBits rFwStatus 15 8 = 8) ∧ (s.fwBusy = false → u.regBit rFwStatus 0 = true)) ∧
      (v.getLsbD 0 = false → v.getLsbD 1 = true → ∃ u, exec (.fwRaiseMin v) s = .next u ∧
        u.svnMin.toNat = Max.max s.svnMin.toNat (s.regBits rFwStatus 39 32) ∧ u.mem = s.mem)) ∧
    (v.toNat / 2 ^ 8 % 2 ^ 8 ≠ 0xF7 → exec (.fwGo v) s = .next s ∧ exec (.fwRaiseMin v) s = .next s) ∧
    (s.fwBusy = true → ∃ u, exec .fwVerifyDone s = .next u ∧ u.fwBusy = false ∧
      (verifySet s.svnMin.toNat s.staged ≠ 1 → verifySet s.svnMin.toNat s.staged < 256 ∧
        u.regBits rFwStatus 15 8 = verifySet s.svnMin.toNat s.staged ∧ u.stage = s.stage ∧ u.mem = s.mem) ∧
      (verifySet s.svnMin.toNat s.staged = 1 → u.stage = 4 ∧ u.fwHeader = s.staged 0 512)) ∧
    (n < 65536 → bs.length ≤ 120 →
      let busy : Prop := s.seqState n = 2 ∨ s.seqHold n = true
      let first := seqKey (128 * n + 8)
      ∃ u, exec (.hostRecordWrite ⟨0, b⟩ 2 (128 * n + 8) bs) s = .next u ∧ ((∃ x ∈ bs, x ≠ none) → busy → u.mem = s.mem ∧
          u.regBits rDiscard 31 0 = (s.regBits rDiscard 31 0 + 1) % 2 ^ 32) ∧
        (¬busy → ∀ k, u.byte k = if first ≤ k ∧ k < first + bs.length then (bs.getD (k - first) none).getD (s.byte k) else s.byte k)) ∧
    (serves →
      let k := if fn = 0 then rDiscard else rVfDiscard fn
      (∀ m, m = 4 ∨ m = 8 → ∃ u, exec (.hostDiscardRead ⟨⟨fn, b⟩, 0, m⟩) s = .next u ∧ u.mem = s.mem ∧ u.reg k = 0 ∧
        u.outbox = s.outbox ++ [.completion fn 0 ((leBytes 8 (s.reg k).toNat).take m)]) ∧
      (∃ u, exec (.hostDiscardRead ⟨⟨fn, b⟩, 4, 4⟩) s = .next u ∧ sent u (.completion fn 0 ((leBytes 8 (s.reg k).toNat).drop 4))) ∧
      (size ≠ 4 → size ≠ 8 → ∃ u, exec (.hostDiscardRead ⟨⟨fn, b⟩, 0, size⟩) s = .next u ∧ sent u (.completion fn 2 []))) ∧
    (∃ u, exec (.configRequest fn (.vfEnable n)) s = .next u ∧ u.vfOn = Min.min n 32 ∧ u.outbox = s.outbox ++ [.config fn 0]) ∧
    (∀ u : State, u.bootError = 0 → u.stage < 8 → exec (.configRequest fn .other) u = .next (u.send (.config fn 1)))

/-- Translations: a completion with permission enters the asker's cache, and reaches what waits for it in the collective die; one
without it ends the request in a fault of the access, by the entry of the completion or by what the cache holds of the page after
a page request, or asks for the page; an invalidation removes what it covers, makes requests stale, and completes in order once the
uses have performed, the posted stores to its range among them (which stores count as uses is log entry 91), and is ignored while
stages run. A peer's read of a frame, frame number times 65,536 plus offset being its address (log entry 64), returns its bytes, and
an unknown request is unsupported. -/
def Obligations.TranslationAndPeers : Prop :=
  ∀ (s : State) (id fn base len tag a n : Nat) (pasid : Option Nat) (r : AtsReq),
    let only : Prop := s.ats.find? (·.id == id) = some r ∧ s.ats = [r] ∧ r.queued = false ∧ r.stale = false ∧ r.shares = false ∧
      s.fnStopped r.fn = false
    let cached (t : State) (e : AtcEntry) : Prop := e ∈ t.atc ∧ t.ats = [] ∧ t.mem = s.mem
    let page : Want := .page r.owner r.fn r.pasid r.page r.perm
    -- the acts of the collective die that waited for the page have the entry, and want it no more
    let reaches (t : State) (e : AtcEntry) : Prop := r.owner.die = 4 → t.waits = s.waits.map fun w =>
      if page ∈ w.wants then { w with wants := w.wants.filter (· ≠ page), got := e :: w.got } else w
    let refusedBy (t : State) (e : AtcEntry) : Prop := t.ats = [] ∧ t.mem = s.mem ∧ (r.owner.die ≠ 4 → e ∈ t.atc) ∧ reaches t e
    let noPri : Prop := s.feature fPRI = false ∨ Map.get 0 s.pri r.fn = 0
    (only → r.paging = false →
      (∀ tb lg rd wr, 12 ≤ lg → ∃ t, exec (.atsCompletion id (.translated tb lg rd wr)) s = .next t ∧
        let e (final : Bool) : AtcEntry := ⟨r.owner, r.fn, r.pasid, 4096 * r.page / 2 ^ lg * 2 ^ lg, lg, tb, rd, wr, final⟩
        (r.perm.ok rd wr = true → cached t (e false) ∧ reaches t (e false)) ∧
        (r.perm.ok rd wr = false → noPri → refusedBy t (e true))) ∧
      (noPri → ∃ t, exec (.atsCompletion id .unsupported) s = .next t ∧
        refusedBy t ⟨r.owner, r.fn, r.pasid, 4096 * r.page, 12, 0, false, false, true⟩) ∧
      (s.feature fPRI = true → Map.get 0 s.pri r.fn ≠ 0 → Map.get 0 s.priUsed r.fn + 1 < Map.get 0 s.pri r.fn →
        ∃ t, exec (.atsCompletion id .unsupported) s = .next t ∧ t.ats = [{ r with paging := true }] ∧
          .pageRequest r.fn r.pasid r.page ∈ t.outbox ∧ Map.get 0 t.priUsed r.fn = Map.get 0 s.priUsed r.fn + 1)) ∧
    (only → r.paging = true →
      (∃ t, exec (.prgResponse id true) s = .next t ∧ t.ats = [{ r with paging := false }] ∧ .ats r.fn r.pasid r.page ∈ t.outbox) ∧
      (∃ t, exec (.prgResponse id false) s = .next t ∧ refusedBy t (match s.atcFind r.owner r.fn r.pasid (4096 * r.page) with
        | some e => { e with final := true }
        | none => ⟨r.owner, r.fn, r.pasid, 4096 * r.page, 12, 0, false, false, true⟩))) ∧
    (s.bootError = 0 → s.stage < 8 → exec (.atsInvalidation fn pasid base len tag) s = .next s) ∧
    (s.bootError ≠ 0 ∨ 8 ≤ s.stage → ∃ t, exec (.atsInvalidation fn pasid base len tag) s = .next t ∧ t.mem = s.mem ∧
      (∀ w ∈ t.waits, ∀ e ∈ w.got, ¬(e.fn = fn ∧ (pasid = none ∨ e.pasid = pasid) ∧ e.base < base + len ∧ base < e.base + 2 ^ e.lg)) ∧
      (∀ e, e ∈ t.atc ↔ e ∈ s.atc ∧ ¬(e.fn = fn ∧ (pasid = none ∨ e.pasid = pasid) ∧ e.base < base + len ∧ base < e.base + 2 ^ e.lg)) ∧
      (∃ uses, t.inval = s.inval ++ [⟨tag, fn, uses⟩] ∧
        ∀ p ∈ s.posted, p.hint = none → (s.fnPasid p.owner).1 = fn → (pasid = none ∨ (s.fnPasid p.owner).2 = pasid) →
          p.addr.toNat % 2 ^ 57 < base + len → base < p.addr.toNat % 2 ^ 57 + p.bytes.length → p.id ∈ uses.map (·.1)) ∧
      ∀ q ∈ t.ats, q.fn = fn → (pasid = none ∨ q.pasid = pasid) → 4096 * q.page < base + len → base < 4096 * q.page + 4096 →
        q.queued = false → q.paging = false → q.stale = true) ∧
    (∀ i rest, s.inval = i :: rest →
      (i.tag = tag → s.open' i.uses = [] → exec (.invalidationCompletion tag) s =
        .next { s with inval := rest, outbox := s.outbox ++ [.invalidated i.fn tag] }) ∧
      (i.tag ≠ tag ∨ s.open' i.uses ≠ [] → ∃ t, exec (.invalidationCompletion tag) s = .next t ∧ t.inval = s.inval ∧ t.outbox = s.outbox)) ∧
    (s.untried (.event (.peerRequest .other)) → exec (.peerRequest .other) s = .next (s.send (.peer 1 []))) ∧
    (∀ v, s.untried (.event (.peerRequest (.atomic 0 a n v))) → (n ≠ 4 ∧ n ≠ 8 ∨ a % n ≠ 0) → exec (.peerRequest (.atomic 0 a n v)) s = .next (s.send (.peer 1 []))) ∧
    (a < 2 ^ 40 → 0 < n → a % 64 + n ≤ 64 → (s.frame (a / 65536)).state = .resident → s.tier.stack = [] → s.tier.hbmMark = [] →
      s.tier.vecMark = [] → s.untried (.event (.peerRequest (.read a n))) → exec (.peerRequest (.read a n)) s =
        .next (s.send (.peer 0 (s.bytes (hbmKey (s.frame (a / 65536)).hbm (a % 65536)) n))))

/-- SPDM and TDISP: a message answered in its stage moves the connection on, one out of order is refused and changes nothing;
a stream's key is set within a session on PF0; an interface locks, starts, stops, or falls into ERROR. The order of messages and
their codes are log entry 52 (PRESUMED, from the standard R65 names); which messages a session needs, and that a STOP from
CONFIG_LOCKED wipes as one from RUN does, are log entry 51. -/
def Obligations.Trust : Prop :=
  ∀ (s : State) (fn a b c : Nat), fn ≤ s.vfOn → 8 ≤ s.stage →
    let x := s.spdmOf fn
    let answers (i : Instr) (code : Nat) (y : Spdm) : Prop := ∃ t args, exec i s = .next t ∧ t.spdmOf fn = y ∧
      t.outbox = s.outbox ++ [.spdm fn code (Config.spdmBytes fn code args)] ∧ t.mem = s.mem ∧ t.ctxs = s.ctxs
    let refuses (i : Instr) (code : Nat) : Prop := exec i s = .next (s.send (.spdmError fn code))
    answers (.getVersion fn) 0x04 ⟨1, false, false, 0⟩ ∧
    (x.stage = 1 → answers (.getCapabilities fn) 0x61 { x with stage := 2 }) ∧
    (x.stage ≠ 1 → refuses (.getCapabilities fn) 0x04) ∧
    (x.stage = 2 → answers (.negotiateAlgorithms fn true) 0x63 { x with stage := 3 } ∧ refuses (.negotiateAlgorithms fn false) 0x07) ∧
    (3 ≤ x.stage → answers (.getDigests fn) 0x01 x ∧ answers (.getCertificate fn a b c) 0x02 x ∧ answers (.challenge fn a b) 0x03 x ∧
      answers (.getMeasurements fn a) 0x60 x ∧ (x.session = false → answers (.keyExchange fn a) 0x64 { x with pending := true })) ∧
    (x.stage < 3 → ∀ i ∈ ([.getDigests fn, .getCertificate fn a b c, .challenge fn a b, .getMeasurements fn a, .keyExchange fn a] : List Instr),
      refuses i 0x04) ∧
    (x.pending = true →
      (Config.spdmFinishOk fn a = true ∧ answers (.finish fn a) 0x65 { x with pending := false, session := true } ∨
       Config.spdmFinishOk fn a = false ∧ ∃ t, exec (.finish fn a) s = .next t ∧ t.spdmOf fn = { x with pending := false } ∧
        t.outbox = s.outbox ++ [.spdmError fn 0x06])) ∧
    (x.session = true → answers (.heartbeat fn) 0x68 x ∧ answers (.keyUpdate fn) 0x69 { x with keys := x.keys + 1 } ∧
      answers (.endSession fn) 0x6C { x with session := false, keys := 0 }) ∧
    (x.session = false → refuses (.heartbeat fn) 0x04 ∧ refuses (.keyUpdate fn) 0x04 ∧ refuses (.endSession fn) 0x04 ∧ refuses (.ideKm fn a b) 0x04) ∧
    (fn = 0 → x.session = true → a < 69 → ∃ t, exec (.ideKm fn a b) s = .next t ∧ Map.get 0 t.ide a = b ∧
      (a = 0 → t.regBit rHostLink 15 = true) ∧ t.mem = s.mem) ∧
    (fn ≠ 0 →
      let st := s.tdispState fn
      (st = 0 → exec (.lockInterface fn) s = .next ((s.setTdisp fn 1).send (.tdisp fn tdispLocked))) ∧
      (st = 1 → exec (.startInterface fn) s = .next ((s.setTdisp fn 2).send (.tdisp fn tdispStarted))) ∧
      (st ≠ 0 → exec (.lockInterface fn) s = .next (s.send (.tdisp fn tdispRefused))) ∧
      (st ≠ 1 → exec (.startInterface fn) s = .next (s.send (.tdisp fn tdispRefused))) ∧
      (st = 0 → exec (.stopInterface fn) s = .next (s.send (.tdisp fn tdispStopped))) ∧
      (4 ≤ st → exec (.stopInterface fn) s = .next (s.send (.tdisp fn tdispRefused))) ∧
      (st = 1 ∨ st = 2 ∨ st = 3 → ∃ t, exec (.stopInterface fn) s = .next t ∧ (t.tdispState fn = st + 4 ∨ t.tdispState fn = 0) ∧
        ∀ core ∈ s.partCores (fn - 1), ∀ o, o < 2 ^ 24 → t.byte (bufKey core 0 0 + o) = 0) ∧
      (st = 1 ∨ st = 2 ∨ st = 5 ∨ st = 6 → ∃ t, exec (.tdispError fn) s = .next t ∧ t.tdispState fn = (if st < 4 then 3 else 7) ∧
        ∀ core ∈ s.partCores (fn - 1), ∀ o, o < 2 ^ 24 → t.byte (bufKey core 0 0 + o) = 0) ∧
      (st = 0 ∨ st = 3 ∨ st = 4 ∨ st = 7 → exec (.tdispError fn) s = .next s))

/-- Partitions and slices: cluster sets and control are checked as they are written, in service; the control of a partition whose
interface is locked keeps what is frozen and brings ERROR; a reset ends the crews with 0xC7 and clears the cores; an account
saturates; the tenant chosen has waiting work and, under the standard policy, the highest waiting priority
and then the largest deficit; a slice's end renews it or starts the switch, whose stages follow; a switch whose records or frames
lack a translation waits for it whole, the outgoing tenant's law signals staying behind when it is done. -/
def Obligations.Partitions : Prop :=
  ∀ (s : State) (p id t : Nat) (v : Word) (cr : Crew), p < 32 →
    let refused (u : State) : Prop := u.regBit (rPartCtl p) 63 = true ∧ u.partClusters p = s.partClusters p ∧
      u.regBits (rPartCtl p) 32 0 = s.regBits (rPartCtl p) 32 0
    (s.bootError = 0 → s.stage < 8 → ∀ i ∈ ([.partWrite p 0x10 v, .partWrite p 0 v, .partitionReset p, .acctAdd t v] : List Instr),
      exec i s = .next s) ∧
    (s.inService = true → s.partFrozen p = true → v.getLsbD 48 = false → ∃ u, exec (.partWrite p 0x10 v) s = .next u ∧
      u.regBits (rPartCtl p) 32 0 = s.regBits (rPartCtl p) 32 0 ∧ u.partClusters p = s.partClusters p ∧
      u.regBit (rPartCtl p) 63 = (!v.getLsbD 63 && s.regBit (rPartCtl p) 63) ∧ u.tdispState (p + 1) % 4 = 3) ∧
    (s.inService = true → s.partFrozen p = false → v.getLsbD 48 = false → v.getLsbD 63 = false →
      let fit : Prop := (v.getLsbD 32 = true → s.partClusters p ≠ 0) ∧
        (v.getLsbD 32 = false → s.partEnabled p = true → s.partCrews p = []) ∧ 10 ≤ v.toNat / 2 ^ 16 % 2 ^ 16 ∧ v.toNat % 2 ^ 16 ≠ 0
      ∃ u, exec (.partWrite p 0x10 v) s = .next u ∧ u.mem = s.mem ∧
        (fit → u.partEnabled p = v.getLsbD 32 ∧ u.regBits (rPartCtl p) 31 0 = v.toNat % 2 ^ 32) ∧ (¬fit → refused u)) ∧
    (s.inService = true → s.partFrozen p = false →
      let clash : Prop := ∃ c q, c < 64 ∧ v.getLsbD c = true ∧ q < 32 ∧ q ≠ p ∧ s.partHas q c = true
      let dead : Prop := ∃ c, c < 64 ∧ v.getLsbD c = true ∧ s.dieState (c / 24) ≠ 2
      ∃ u, exec (.partWrite p 0 v) s = .next u ∧ u.mem = s.mem ∧
        (clash ∨ dead ∨ s.partEnabled p = true ∧ s.reg (rPartClLo p) ≠ v → refused u) ∧
        (¬clash → ¬dead → s.partEnabled p = false → u.reg (rPartClLo p) = v)) ∧
    (s.inService = true → ∃ u, exec (.partitionReset p) s = .next u ∧ u.part p = .start ∧ u.regBit (rPartStat p) 6 = false ∧
      u.regBit (rPartStat p) 32 = false ∧
      (∀ w, w < 8 → Map.get 0 u.bin.hints (8 * p + w) = 0) ∧ Map.get 0 u.bin.events p = 0 ∧
      (∀ c ∈ s.partCores p, ∀ o, o < 2 ^ 24 → u.byte (bufKey c 0 0 + o) = 0) ∧
      (s.crew? id = some cr → cr.part = some p → cr.ending = none → ∃ cr', u.crew? id = some cr' ∧ cr'.ending = some (0xC7, 0xFFFF))) ∧
    (s.inService = true → ∃ u, exec (.acctAdd t v) s = .next u ∧ u.mem = s.mem ∧
      (u.reg (rAcctBal t)).toInt = Max.max (-(2 ^ 63)) (Min.min (2 ^ 63 - 1) ((s.reg (rAcctBal t)).toInt + v.toInt)) ∧
      (t ∈ u.pilot.broke ↔ (u.reg (rAcctBal t)).toInt ≤ 0)) ∧
    (∀ out u, s.chooseTenant p out = (u, some t) →
      let cands := (s.partTenants p).filter fun x => !(s.waiting x).isEmpty
      let level (x : Nat) : Nat := ((s.waiting x).map (·.prio)).foldl Nat.max 0
      t ∈ cands ∧ (Config.standardPolicy s.fwHeader = true → (∀ x ∈ cands, level x ≤ level t) ∧
        ∀ x ∈ cands, level x = level t → x < 64 → u.deficit x ≤ u.deficit t)) ∧
    (∀ e cur u, (s.part p).stage = 0 → (s.part p).ends = some e → e ≤ s.timeNs → s.curTenant p = some cur →
      (s.chooseTenant p (some cur) = (u, some t) → t ≠ cur → ∃ w, exec (.sliceEnd p) s = .next w ∧
        w.part p = ⟨none, 1, some cur, some t, []⟩) ∧
      (s.chooseTenant p (some cur) = (u, some cur) → ∃ w, exec (.sliceEnd p) s = .next w ∧
        w.part p = { s.part p with ends := some (s.timeNs + 1000 * s.regBits (rPartCtl p) 31 16) }) ∧
      (s.chooseTenant p (some cur) = (u, none) → exec (.sliceEnd p) s = .next u)) ∧
    ((s.part p).stage ≠ 0 ∨ (s.part p).ends = none → exec (.sliceEnd p) s = .next s) ∧
    ((∀ e ∈ s.pilot.crews, e.2.part = some p → e.2.mode = .draining → e.2.isOver = false → s.timeNs < e.2.drainBy) →
      exec (.drainDeadlineExpiry p) s = .next s) ∧
    (cr.drainBy ≤ s.timeNs → s.pilot.crews = [(id, cr)] → cr.part = some p → cr.mode = .draining →
      cr.isOver = false → s.canSave id cr = true → ∃ u cr', exec (.drainDeadlineExpiry p) s = .next u ∧ u.crew? id = some cr' ∧
        cr'.mode = .saving ∧ ∀ x ∈ s.live id cr, (u.ctx x).ev10 = true) ∧
    (∀ ten, s.crew? id = some cr → cr.mode = .saving → cr.ending = none → cr.isOver = false → s.saveReady id cr = true →
      s.canSave id cr = true → cr.tenant = some ten → s.untried (.event (.crewSaveDone id)) →
      let s0 := { s with wants := [], answers := [] }
      ∃ w, exec (.crewSaveDone id) s = .next w ∧ ∀ u, s0.writeArea ten ((s.saveFrames cr).take (s.runsOf' id cr)) = (u, true) →
        u.wants = [] → ∃ cr', w.crew? id = some cr' ∧ cr'.mode = .saved ∧
          cr'.savedCx = (s.live id cr).map (fun x => (x, u.ctx x)) ∧ ∀ x ∈ s.live id cr, (w.ctx x).mode = .idle) ∧
    (∀ b, (s.part p).incoming = some b → s.preempted p = true → ∃ u, exec (.switchClearingDone p) s = .next u ∧
      let done : Prop := (u.part p).stage = 3 ∧ (u.part p).incoming = some b ∧ (u.part p).outgoing = (s.part p).outgoing ∧
        Map.get 0 u.bin.sigs p = 0 ∧ p ∉ u.bin.lawFault ∧ ((∀ x ∈ s.posted, x.hint = none) → (u.part p).words = s.hintWords p)
      let lacks : Prop := u.pilot = s.pilot ∧ u.bin = s.bin ∧ u.tier = s.tier ∧ u.mem = s.mem ∧ u.ctxs = s.ctxs ∧
        ∃ w ∈ u.waits, w.task = .event (.switchClearingDone p) ∧ w.wants ≠ []
      (done ∨ lacks) ∧ (s.untried (.event (.switchClearingDone p)) → (∀ x, s.regBits (rSaveFrames x) 31 0 = 0) →
        (∀ e ∈ s.tier.frames, e.2.kind = 0) → done)) ∧
    (s.swapOver p = true → ∃ u, exec (.scarabSwapDone p) s = .next u ∧ ∀ e ∈ u.tier.swap, e.1 ≠ p)

/-- The Pilot: a pass counts, is followed by the next, and ends with the system's crews (a free choice, log entry 48); a crew whose
gate has waited is tried again as the wait runs out (log entry 47); a plan register is written, in service, unless the plan is
valid and would change; a token of a step in progress is counted as its slot's state gives, and one that is
taken advances the record; a crew that is over is gone and its launch record ends. -/
def Obligations.PilotWork : Prop :=
  ∀ (s : State) (p n id i : Nat) (v : Word) (token : W32) (cr : Crew),
    (7 ≤ s.stage → s.bootError = 0 → s.tripped = false → s.committed = false → (∀ q, q < 32 → s.partEnabled q = false) →
      s.tier.fetch = [] → s.pilot.records = [] → (∀ w ∈ s.waits, .room ∉ w.wants) →
      let u := (s.bump rPilotStat 31 0).at' (cycleOf (s.timeNs + s.regBits rPilotCtl 15 0)) .schedPass
      exec .schedPass s = .next u.systemCrews ∧ u.regBits rPilotStat 31 0 = (s.regBits rPilotStat 31 0 + 1) % 2 ^ 32 ∧
        (cycleOf (s.timeNs + s.regBits rPilotCtl 15 0), .schedPass) ∈ u.agenda ∧ u.mem = s.mem ∧ u.ctxs = s.ctxs) ∧
    (exec (.gateWaitExpiry p) s = .next (if s.partEnabled p = true ∧
      (∃ e ∈ s.pilot.gates, e.2 + 1000 * s.regBits rPilotCtl 47 32 ≤ s.timeNs) then s.placePart p else s)) ∧
    (s.bootError = 0 → s.stage < 8 → ∀ off, exec (.planWrite n off v) s = .next s) ∧
    (∀ k, s.inService = true → n < 256 → k < 6 → (let off := 0x30 + 8 * k
      ∃ u, exec (.planWrite n off v) s = .next u ∧ (s.planValid n = false ∨ s.plan n off = v → u.plan n off = v) ∧
        (s.planValid n = true → s.plan n off ≠ v → u.plan n off = s.plan n off ∧ u.regBit (rPlan n 0) 62 = true))) ∧
    (s.inService = true → n < 256 → s.planValid n = false → v.getLsbD 63 = true → v.getLsbD 62 = false →
      let fit : Prop := s.tenantValid (v.toNat / 2 ^ 40 % 64) = true ∧ v.toNat / 2 ^ 32 % 4 ≠ 0 ∧ v.toNat / 2 ^ 16 % 2 ^ 11 ≠ 0 ∧
        v.toNat / 2 ^ 16 % 2 ^ 11 ≤ 1024 ∧ v.toNat % 2 ^ 16 ≠ 0 ∧ s.planFrames n ≠ 0
      (fit → s.planFrames n < 2 ^ 32 → ∃ u, exec (.planWrite n 0 v) s = .next u ∧ u.planValid n = true ∧ u.planStep n = 0 ∧
        u.planTenant n = v.toNat / 2 ^ 40 % 64 ∧ u.regBits (rPlan n 0x20) 31 0 = s.planFrames n) ∧
      (¬fit → ∃ u, exec (.planWrite n 0 v) s = .next u ∧ u.planValid n = false ∧ u.regBit (rPlan n 0) 62 = true)) ∧
    (s.untried (.event (.mayflyPost id i token)) →
     let counts (hi lo : Nat) : Prop := ∃ u, exec (.mayflyPost id i token) s = .next u ∧ u.mem = s.mem ∧
       u.regBits rMayfly hi lo = (s.regBits rMayfly hi lo + 1) % 2 ^ 16
     ((s.crew? id).bind (·.plan) = none → counts 15 0) ∧
     (∀ k r, (s.crew? id).bind (·.plan) = some (n, k) → s.stepRun n = some r →
       (r.slots.find? (·.seq == i) = none → counts 15 0) ∧
       (∀ sl, r.slots.find? (·.seq == i) = some sl →
         (sl.out = 0xFFFFFFFF → counts 47 32) ∧
         (sl.out ≠ 0xFFFFFFFF → sl.took = true ∨ s.seqState i ≠ 2 → counts 31 16) ∧
         (sl.out ≠ 0xFFFFFFFF → sl.took = false → s.seqState i = 2 → i < 65536 →
           let s1 := ({ s with wants := [], answers := [] } : State).setStep n
             { r with slots := r.slots.map fun x => if x.seq = i then { x with took := true } else x }
           let gen := s.seqNum i 100 4
           ∃ u, exec (.mayflyPost id i token) s = .next u ∧
             ∀ w, s1.sysWrite' (some (s.planTenant n)) (s.seqNum i 80 8 + 4 * gen) (leBytes 4 token.toNat) = (w, none) →
             w.wants = [] → (∀ o m, w.seqNum i o m = s.seqNum i o m) →
             let stop : Prop := ∃ j, j < s.seqNum i 8 8 / 2 ^ 16 % 16 ∧ j < 8 ∧ s.seqNum i (32 + 4 * j) 4 = token.toNat
             u.seqNum i 100 4 = (gen + 1) % 2 ^ 32 ∧ u.seqNum i 104 4 = token.toNat ∧
               (s.seqNum i 8 8 / 2 ^ 16 % 16 ≤ 8 →
                 (stop → u.seqState i = 3 ∧ u.seqNum i 2 1 = 0xC1) ∧
                 (¬stop → gen + 1 = s.seqNum i 28 4 → u.seqState i = 3 ∧ u.seqNum i 2 1 = 0xC2) ∧
                 (¬stop → gen + 1 ≠ s.seqNum i 28 4 → u.seqState i = 2)))))) ∧
    (s.crew? id = some cr →
      (cr.isOver = false → exec (.crewEnd id) s = .next s) ∧
      (∀ ten, cr.isOver = true → cr.tenant = some ten → cr.launch = some i → s.launchNum ten i 56 8 = 0 →
        ∃ u, exec (.crewEnd id) s = .next u ∧ u.crew? id = none ∧
          ((∀ rc, cr.ending = some rc → rc.1 = 0) → u.launchState ten i = 3) ∧
          (∀ rc, cr.ending = some rc → 0 < rc.1 → rc.1 < 256 → u.launchState ten i = 4 ∧ u.launchNum ten i 2 1 = rc.1)))

/-- Frames: a fetch that ends brings the backing bytes, or retires the frame; an eviction writes them down and frees an HBM frame,
zeroed as it is freed (log entry 112), while a port to the peer is up, else it waits (log entry 56); a scrub leaves zero; a frame's
arrival counts for a migration that has come to it, and a late one slips, one that has yet to come to it noting it (log entry 57);
FMAP commands act, wait or are refused; way masks, splits and clears, which a locked interface freezes; all writes in service. The
address of a peer's backing copy is log entry 64. -/
def Obligations.FramesAndWays : Prop :=
  ∀ (s : State) (f t p die : Nat) (v : Word),
    let e := s.frame f
    let back := peerKey (e.backing.toNat / 2 ^ 48 % 2 ^ 10) (e.backing.toNat / 2 ^ 16 % 2 ^ 32 * 65536)
    let calm : Prop := s.tier.migs = [] ∧ s.tier.fetch.filter (· ≠ f) = []
    let busy := s.regBit rFmapStat 0
    let done (i : Instr) (ok : State → Frame → Prop) : Prop :=
      ∃ u, exec i s = .next u ∧ u.regBits rFmapStat 15 8 = 1 ∧ u.regBit rFmapStat 0 = false ∧ ok u (u.frame (v.toNat % 2 ^ 24))
    (Memory.wf s.mem = true → e.state = .inFlight → e.out = false → e.kind = 2 → e.hbm < hbmFrames → calm →
      (∀ b, s.untried (.event (.frameFetchDone f b))) →
      (∃ u, exec (.frameFetchDone f true) s = .next u ∧ u.frame f = { e with state := .resident, dirty := false } ∧
        ∀ o, o < 65536 → u.byte (hbmKey e.hbm o) = s.byte (back + o)) ∧
      (∃ u, exec (.frameFetchDone f false) s = .next u ∧ u.frame f = { e with state := .retired } ∧
        ∀ o, o < 65536 → u.byte (hbmKey e.hbm o) = 0)) ∧
    (Memory.wf s.mem = true → e.state = .inFlight → e.out = true → e.kind = 2 → e.hbm < hbmFrames → s.hbmBad e.hbm = false →
      s.tier.migs = [] → s.tier.fetch = [] → s.untried (.event (.frameEvictDone f)) →
      (s.regBits rUalState 35 0 ≠ 0 → ∃ u, exec (.frameEvictDone f) s = .next u ∧
        u.frame f = { e with state := .absent, dirty := false, out := false } ∧
        ∀ o, o < 65536 → u.byte (back + o) = s.byte (hbmKey e.hbm o) ∧ u.byte (hbmKey e.hbm o) = 0) ∧
      (s.regBits rUalState 35 0 = 0 → ∃ u, exec (.frameEvictDone f) s = .next u ∧ u.frame f = e ∧ u.mem = s.mem)) ∧
    (s.tier.scrub.head? = some f → e.state = .scrub → e.hbm < hbmFrames → calm → s.tier.fetch = [] →
      ∃ u, exec (.frameScrubDone f) s = .next u ∧ u.frame f = { e with state := .resident, dirty := e.kind != 0 } ∧
        (∀ o, o < 65536 → u.byte (hbmKey e.hbm o) = 0) ∧
        ∀ m, (∀ o, o < 65536 → m ≠ hbmKey e.hbm o) → u.byte m = s.byte m) ∧
    (e.state = .inFlight → e.out = false → e.kind = 2 → e.hbm < hbmFrames → s.untried (.event (.frameFetchDone f true)) →
      (∀ w : MigWait, s.tier.migs = [w] → w.frame = f → ∃ u, exec (.frameFetchDone f true) s = .next u ∧ u.tier.migs = [] ∧
        u.landing w.core w.lobj = arriveWord (s.landing w.core w.lobj) 65536 ∧
        (u.ctx w.cx).slip = (s.ctx w.cx).slip + if w.deadline < (s.ctx w.cx).tick then 1 else 0) ∧
      (∀ m : MigSeen, s.tier.migs = [] → s.tier.migSeen = [m] → f ∉ m.there → f ∉ m.since.map (·.1) →
        ∃ u, exec (.frameFetchDone f true) s = .next u ∧ u.ctxs = s.ctxs ∧
          u.tier.migSeen = [{ m with since := m.since ++ [(f, decide (m.deadline < (s.ctx m.cx).tick))] }])) ∧
    (s.bootError = 0 → s.stage < 8 → ∀ i ∈ ([.fmapAssign v, .fmapRelease v, .fmapSwmOn v, .fmapSwmOff v, .fmapPeek v,
      .stackWaysWrite t v, .stackSplitWrite p die v, .stackWayclr die v] : List Instr), exec i s = .next s) ∧
    (s.inService = true → busy = true → ∀ i ∈ ([.fmapAssign v, .fmapRelease v, .fmapSwmOn v, .fmapSwmOff v, .fmapPeek v] : List Instr),
      ∃ u, exec i s = .next u ∧ u.regBits rFmapStat 15 8 = 2 ∧ u.tier = s.tier) ∧
    (s.inService = true → busy = false →
      let g := s.frame (v.toNat % 2 ^ 24)
      let kind := v.toNat / 2 ^ 59 % 4
      let ten := v.toNat / 2 ^ 50 % 64
      (g.state ≠ .inFlight → s.tier.fetch = [] →
        (kind = 1 ∨ kind = 2 ∧ s.feature fPEER = true → s.tenantValid ten = true → (g.owned = false ∨ g.owner = ten) → g.state ≠ .retired →
          done (.fmapAssign v) fun _ h => h.owned = true ∧ h.owner = ten ∧ h.kind = kind ∧ h.backing = s.reg rFmapArg ∧
            h.state = .absent ∧ h.dirty = false ∧ h.recd = false ∧ h.cur = false) ∧
        done (.fmapRelease v) (fun _ h => h.owned = false ∧ h.state = .absent) ∧
        done (.fmapSwmOn v) (fun _ h => h = { g with swm := true }) ∧
        (s.tier.stack = [] → done (.fmapSwmOff v) (fun _ h => h = { g with swm := false })) ∧
        done (.fmapPeek v) (fun u h => h = g ∧ u.reg rFmapEntry0 = g.word0 ∧ u.reg rFmapEntry1 = g.backing)) ∧
      (g.state = .inFlight → ∃ u, exec (.fmapRelease v) s = .next u ∧ u.regBit rFmapStat 0 = true ∧ u.tier.cmd ≠ none ∧
        u.tier.frames = s.tier.frames) ∧
      (kind = 3 → ∃ u, exec (.fmapAssign v) s = .next u ∧ u.regBits rFmapStat 15 8 = 3 ∧ u.tier = s.tier) ∧
      (kind ≠ 3 → s.tenantValid ten = false → ∃ u, exec (.fmapAssign v) s = .next u ∧ u.regBits rFmapStat 15 8 = 4 ∧ u.tier = s.tier) ∧
      (kind = 2 → s.tenantValid ten = true → s.feature fPEER = false → ∃ u, exec (.fmapAssign v) s = .next u ∧
        u.regBits rFmapStat 15 8 = 5 ∧ u.tier = s.tier)) ∧
    (∀ arg, s.tier.cmd = some (v, arg) → v.toNat / 2 ^ 61 = 3 → (s.frame (v.toNat % 2 ^ 24)).state ≠ .inFlight →
      done .fmapCommandDone fun u h => h.swm = true ∧ u.tier.cmd = none) ∧
    (let locked : Prop := s.tenantValid t = true ∧ s.partFrozen (s.tenantPart t) = true
     s.inService = true → t < 64 →
     (locked → ∃ u, exec (.stackWaysWrite t v) s = .next u ∧ u.tier.ways = s.tier.ways ∧ u.reg (rStackWays t) = s.reg (rStackWays t) ∧
       u.tdispState (s.tenantPart t + 1) % 4 = 3) ∧
     (¬locked → (∀ w ∈ s.tier.ways, w.1 ≠ t) → ∃ u, exec (.stackWaysWrite t v) s = .next u ∧ u.tier.ways = s.tier.ways ++ [(t, v)] ∧
      u.reg (rStackWays t) = s.reg (rStackWays t))) ∧
    (s.tier.ways = [(t, v)] → ∃ u, exec (.wayMaskApplied t) s = .next u ∧ u.reg (rStackWays t) = v ∧ u.tier.ways = []) ∧
    (s.inService = true → p < 32 → die < 4 → s.partFrozen p = true → ∃ u, exec (.stackSplitWrite p die v) s = .next u ∧
      u.regBits (rStackSplit p die) 15 0 = s.regBits (rStackSplit p die) 15 0 ∧ u.regBit (rStackSplit p die) 63 = true ∧
      u.tdispState (p + 1) % 4 = 3) ∧
    (s.inService = true → p < 32 → die < 4 → s.partFrozen p = false → v.getLsbD 63 = false →
      let new := v.toNat % 2 ^ 16
      let shared : Prop := ∃ q w, q < 32 ∧ q ≠ p ∧ w < 16 ∧ v.getLsbD w = true ∧ hasBit (s.regBits (rStackSplit q die) 15 0) w = true
      let held : Prop := ∃ w, w < 16 ∧ v.getLsbD w ≠ hasBit (s.regBits (rStackSplit p die) 15 0) w ∧
        (s.wayInvalid die w = false ∨ v.getLsbD w = true ∧ s.wayNamed die w = true)
      ∃ u, exec (.stackSplitWrite p die v) s = .next u ∧ u.mem = s.mem ∧
        (shared ∨ held → u.regBits (rStackSplit p die) 15 0 = s.regBits (rStackSplit p die) 15 0 ∧
          u.regBit (rStackSplit p die) 63 = true) ∧
        (¬shared → ¬held → u.regBits (rStackSplit p die) 15 0 = new)) ∧
    (let named : Prop := ∃ w, w < 16 ∧ v.getLsbD w = true ∧ hasBit (s.scratchMask die) w = false ∧ s.wayNamed die w = true
     s.inService = true → (named → ∃ u, exec (.stackWayclr die v) s = .next u ∧ u.regBit (rStackSplit 0 die) 63 = true ∧ u.tier = s.tier) ∧
     (¬named → ∃ u, exec (.stackWayclr die v) s = .next u ∧ (∀ x ∈ u.tier.stack, keyDie x.1 = die → v.getLsbD (keyWay x.1) = false) ∧
       ∀ w o, w < 16 → v.getLsbD w = true → hasBit (s.scratchMask die) w = true → o < 0x1800000 →
         u.byte (scratchKey (die * 2 ^ 29 + w * 0x1800000 + o)) = 0))

/-- Events at a core, each under the condition that brings it: a landed block of work, a drained context blocks, yields or
retires, a blocked or parked one becomes READY, a watchdog raises 0x08 at the next group, an event enters the handler or stops
the context for its save, a member retires, a freeze ends; otherwise nothing changes. -/
def Obligations.CoreEvents : Prop :=
  ∀ (s : State) (cx id core : Nat),
    let c := s.ctx cx
    let does (i : Instr) (cond : Prop) (ok : State → Ctx → Prop) : Prop :=
      (cond → ∃ t, exec i s = .next t ∧ ok t (t.ctx cx) ∧ (∀ x, x ≠ cx → t.ctx x = s.ctx x) ∧ t.mem = s.mem) ∧
      (¬cond → exec i s = .next s)
    let ready (d : Ctx) : Prop := d.mode = .ready ∧ d.since = s.g ∧ d.sregs = c.sregs ∧ d.pc = c.pc ∧ d.tick = c.tick
    does (.parkResume cx) (s.parkOver cx = true) (fun _ d => ready d) ∧
    does (.unblock cx) (s.blockOver cx = true) (fun _ d => ready d ∧ d.blockOn = none) ∧
    does (.watchdogExpiry cx) (c.mode = .blocked ∧ c.wdog.toNat ≤ c.wcount ∧ ((∃ a ph, c.blockOn = some (.landing a ph)) ∨ ∃ tag, c.blockOn = some (.barrier tag)))
      (fun _ d => ready d ∧ (∀ a ph, c.blockOn = some (.landing a ph) → d.pendFault = some ⟨0x08, 1, BitVec.ofNat 64 a⟩) ∧
        ∀ tag, c.blockOn = some (.barrier tag) → d.pendFault = some ⟨0x08, 2, BitVec.ofNat 64 tag⟩) ∧
    does (.drainComplete cx) (c.mode = .holding ∧ c.leaving ≠ none ∧ c.quiet = true ∧ s.frozen (coreOf cx) = false) (fun t d =>
      d.leaving = none ∧ d.sregs = c.sregs ∧ d.pc = c.pc ∧ d.tick = c.tick ∧
      (∀ b, c.leaving = some (.block b) → d.mode = .blocked ∧ d.blockOn = some b ∧ (t.core (coreOf cx)).lastCx = cx % 4) ∧
      (c.leaving = some .retire → d.mode = .blocked ∧ d.blockOn = some .retiring) ∧ (c.leaving = some .turn → ready d) ∧
      ∀ tg r, c.leaving = some (.realign tg r) → d.mode = .holding ∧ d.realign = some ⟨tg, r⟩) ∧
    does (.turnLimitExpiry cx) (c.mode = .holding ∧ c.idle = 0 ∧ c.leaving = none ∧ c.realign = none ∧ c.treturn = none ∧ 64 ≤ c.yielded ∧
      s.otherReady cx = true) (fun _ d => d = { c with leaving := some .turn }) ∧
    (s.eventDue cx = false → exec (.asyncEventEntry cx) s = .next s) ∧
    (s.eventDue cx = true →
      (c.ev10 = true → ∃ t, exec (.asyncEventEntry cx) s = .next t ∧ ready (t.ctx cx) ∧ (t.ctx cx).halted = true) ∧
      (c.ev10 = false → c.m11 = true → s.feature fPOWER = true → c.trapvec ≠ 0 → s.groupStart cx c.trapvec = true →
        ∃ t, exec (.asyncEventEntry cx) s = .next t ∧
          let d := t.ctx cx
          d.ev11 = false ∧ d.pc = c.trapvec ∧ d.epc = c.pc ∧ d.inh = true ∧ d.cause = 0x11 ∧ d.idle = 3 ∧ d.sregs = c.sregs ∧
            d.pend = [] ∧ d.snap = some ⟨c.tick, c.pend⟩)) ∧
    (∀ cr, s.retireOver cx = true → c.crew = some id → s.crew? id = some cr →
      (c.engErr = none → ∃ t, exec (.memberRetireComplete cx) s = .next t ∧ (t.ctx cx).mode = .idle ∧
        t.crew? id = some { cr with retired := cx :: cr.retired }) ∧
      (∀ tr, c.engErr = some tr → cr.ending = none → ∃ t cr', exec (.memberRetireComplete cx) s = .next t ∧ t.crew? id = some cr' ∧
        cr'.ending = some (tr.kind, coreOf cx))) ∧
    (∃ t, exec (.shadowBankReady cx) s = .next t ∧ t.mem = s.mem ∧ let d := t.ctx cx
      d = { c with bank0 := d.bank0, bank1 := d.bank1 } ∧ (∀ b : Bool, (d.bankOf b).ready = if (c.bankOf b).ready ≤ c.tick then 0 else (c.bankOf b).ready)) ∧
    (∃ t, exec (.freezeEnd core) s = .next t ∧ t.ctxs = s.ctxs ∧ t.mem = s.mem ∧
      ∀ f, f ∈ (t.core core).freeze ↔ f ∈ (s.core core).freeze ∧ s.cleared core f = false) ∧
    (let held := (s.core (coreOf cx)).held.find? (·.id == id)
     (held = none → ∃ t, exec (.loadDataReturn cx id) s = .next t ∧ t.ctxs = s.ctxs ∧ t.mem = s.mem ∧
        ∀ x, x ∈ (t.core (coreOf cx)).pending ↔ x ∈ (s.core (coreOf cx)).pending ∧ x ≠ id) ∧
     ∀ x, held = some x →
        let h := s.replaced x
        (s.opReady h h.writes = false → ∃ t, exec (.loadDataReturn cx id) s = .next t ∧ t.ctxs = s.ctxs ∧ t.mem = s.mem ∧
          (∃ g, (g, .loadDataReturn cx id) ∈ t.agenda) ∧ (∀ c, c ≠ coreOf x.cx → t.core c = s.core c) ∧
          t.core (coreOf x.cx) = { s.core (coreOf x.cx) with
            held := (s.core (coreOf x.cx)).held.map fun y => if y.id = id then h else y }) ∧
        ∀ u v, s.opReady h h.writes = true → (∀ f, x.acc.frame = some f → s.notOwned f (s.ownerOf x.cx) = false ∧
            (s.frame f).state = .resident) → s.performOp h = (u, .value v) →
          ∃ t, exec (.loadDataReturn cx id) s = .next t ∧ t.mem = u.mem ∧
            (∀ x, x ∈ (t.core (coreOf h.cx)).held ↔ x ∈ (u.core (coreOf h.cx)).held ∧ x.id ≠ h.id) ∧
            (∀ x, x ∈ (t.core (coreOf h.cx)).pending ↔ x ∈ (u.core (coreOf h.cx)).pending ∧ x ≠ h.id) ∧
            (t.ctx h.cx).sregs = (u.ctx h.cx).sregs ∧
            (t.ctx h.cx).pend = (u.ctx h.cx).pend.map fun p =>
              match p.act with
              | .load i d => if i = h.id then { p with act := .sreg d v } else p
              | _ => p)

/-- Every instruction, in every state, and every step ends in a next state: no fault of the model's own and no refusal is
ever reached (a fault of the spec is taken, R203, and is a next state). -/
def Obligations.NoStepStops : Prop :=
  (∀ (i : Instr) (s : State), ∃ t, exec i s = .next t) ∧ ∀ s : State, ∃ t, Sys2Proof.Machine.step s = .next t
end

