-- ==== Sys2Proof/Laws/Sparse.lean ====
section
/-! SUPPORT. Laws of the sparse maps: what a read sees after a write or a removal, and that every operation keeps the
canonical form. The reads hold of any list; only the form needs the form. -/

namespace Sys2Proof.Machine

theorem Map.get_put_same {α : Type} (d : α) (m : Map α) (a : Nat) (x : α) : Map.get d (Map.put m a x) a = x := by
  induction m with
  | nil => simp [Map.put, Map.get]
  | cons e m ih =>
    obtain ⟨k, v⟩ := e
    simp only [Map.put]
    split
    · simp [Map.get]
    · split
      · simp [Map.get]
      · simp [Map.get, *]

theorem Map.get_put_other {α : Type} (d : α) (m : Map α) (a b : Nat) (x : α) (h : b ≠ a) :
    Map.get d (Map.put m a x) b = Map.get d m b := by
  induction m with
  | nil => simp [Map.put, Map.get, h]
  | cons e m ih =>
    obtain ⟨k, v⟩ := e
    simp only [Map.put]
    split
    · rename_i hk; subst hk; simp [Map.get, h]
    · split
      · simp [Map.get, h]
      · simp only [Map.get, ih]

theorem Map.get_put {α : Type} (d : α) (m : Map α) (a b : Nat) (x : α) :
    Map.get d (Map.put m a x) b = if b = a then x else Map.get d m b := by
  by_cases h : b = a
  · subst h; simp [Map.get_put_same]
  · simp [h, Map.get_put_other]

theorem Map.get_del {α : Type} (d : α) (m : Map α) (a b : Nat) :
    Map.get d (Map.del m a) b = if b = a then d else Map.get d m b := by
  induction m with
  | nil => simp [Map.del, Map.get]
  | cons e m ih =>
    obtain ⟨k, v⟩ := e
    simp only [Map.del]
    split
    · rename_i hk; subst hk; rw [ih]; by_cases h : b = a <;> simp [Map.get, h]
    · rename_i hk
      simp only [Map.get, ih]
      by_cases h : b = k
      · subst h; simp [Ne.symm hk]
      · simp [h]

/-- A read after a write to a map with a default. -/
theorem Map.get_set {α : Type} [DecidableEq α] (d : α) (m : Map α) (a b : Nat) (x : α) :
    Map.get d (Map.set d m a x) b = if b = a then x else Map.get d m b := by
  unfold Map.set
  split
  · rename_i h; subst h; exact Map.get_del x m a b
  · exact Map.get_put d m a b x

/-- Elsewhere a write is not seen, whatever the default of the read. -/
theorem Map.get_set_other {α : Type} [DecidableEq α] (d d' : α) (m : Map α) (a b : Nat) (x : α) (h : b ≠ a) :
    Map.get d' (Map.set d m a x) b = Map.get d' m b := by
  unfold Map.set
  split
  · rw [Map.get_del, if_neg h]
  · rw [Map.get_put, if_neg h]

/-- Dropping entries leaves every key that is kept as it was. -/
theorem Map.get_filter {α : Type} (d : α) (p : Nat × α → Bool) (m : Map α) (a : Nat)
    (h : ∀ v, (a, v) ∈ m → p (a, v) = true) : Map.get d (m.filter p) a = Map.get d m a := by
  induction m with
  | nil => rfl
  | cons e m ih =>
    obtain ⟨k, v⟩ := e
    have ih' := ih fun w hw => h w (List.mem_cons_of_mem _ hw)
    by_cases hk : a = k
    · subst hk
      simp [h v (by simp), Map.get]
    · by_cases hp : p (k, v) = true <;> simp [hp, Map.get, hk, ih']

/- The canonical form -/

theorem Map.wfFrom_weaken {α : Type} [DecidableEq α] (d : α) (m : Map α) (a b : Nat) (hab : a ≤ b)
    (h : Map.wfFrom d (some b) m = true) : Map.wfFrom d (some a) m = true := by
  cases m with
  | nil => rfl
  | cons e m =>
    obtain ⟨k, v⟩ := e
    simp only [Map.wfFrom, Bool.and_eq_true, decide_eq_true_eq] at h ⊢
    exact ⟨⟨by omega, h.1.2⟩, h.2⟩

theorem Map.wfFrom_none {α : Type} [DecidableEq α] (d : α) (m : Map α) (a : Nat)
    (h : Map.wfFrom d (some a) m = true) : Map.wfFrom d none m = true := by
  cases m with
  | nil => rfl
  | cons e m =>
    obtain ⟨k, v⟩ := e
    simp only [Map.wfFrom, Bool.and_eq_true, decide_eq_true_eq, Bool.true_and] at h ⊢
    exact ⟨h.1.2, h.2⟩

theorem Map.wfFrom_put {α : Type} [DecidableEq α] (d : α) (m : Map α) (lo : Option Nat) (a : Nat) (x : α) (hx : x ≠ d)
    (hlo : ∀ l, lo = some l → l < a) (h : Map.wfFrom d lo m = true) : Map.wfFrom d lo (Map.put m a x) = true := by
  induction m generalizing lo with
  | nil =>
    cases lo with
    | none => simp [Map.put, Map.wfFrom, hx]
    | some l => simp [Map.put, Map.wfFrom, hx, hlo l rfl]
  | cons e m ih =>
    obtain ⟨k, v⟩ := e
    simp only [Map.wfFrom, Bool.and_eq_true, decide_eq_true_eq] at h
    simp only [Map.put]
    split
    · rename_i hk; subst hk
      simp only [Map.wfFrom, Bool.and_eq_true, decide_eq_true_eq]
      exact ⟨⟨h.1.1, hx⟩, h.2⟩
    · split
      · rename_i hlt
        simp only [Map.wfFrom, Bool.and_eq_true, decide_eq_true_eq]
        refine ⟨⟨?_, hx⟩, ⟨hlt, h.1.2⟩, h.2⟩
        cases lo with
        | none => rfl
        | some l => simpa using hlo l rfl
      · rename_i hne hge
        simp only [Map.wfFrom, Bool.and_eq_true, decide_eq_true_eq]
        exact ⟨⟨h.1.1, h.1.2⟩, ih (some k) (fun l hl => by cases hl; omega) h.2⟩

theorem Map.wfFrom_filter {α : Type} [DecidableEq α] (d : α) (p : Nat × α → Bool) (m : Map α) (lo : Option Nat)
    (h : Map.wfFrom d lo m = true) : Map.wfFrom d lo (m.filter p) = true := by
  induction m generalizing lo with
  | nil => simp [Map.wfFrom]
  | cons e m ih =>
    obtain ⟨k, v⟩ := e
    simp only [Map.wfFrom, Bool.and_eq_true, decide_eq_true_eq] at h
    have := ih (some k) h.2
    by_cases hp : p (k, v) = true
    · simp only [List.filter_cons, hp, if_true, Map.wfFrom, Bool.and_eq_true, decide_eq_true_eq]
      exact ⟨⟨h.1.1, h.1.2⟩, this⟩
    · simp only [List.filter_cons, hp]
      cases lo with
      | none => exact Map.wfFrom_none d _ k this
      | some l => exact Map.wfFrom_weaken d _ l k (by simpa using Nat.le_of_lt (by simpa using h.1.1)) this

theorem Map.del_eq_filter {α : Type} (m : Map α) (a : Nat) : Map.del m a = m.filter fun e => decide (e.1 ≠ a) := by
  induction m with
  | nil => rfl
  | cons e m ih =>
    obtain ⟨k, v⟩ := e
    simp only [Map.del]
    split
    · rename_i h; subst h; simp [ih]
    · rename_i h; simp [Ne.symm h, ih]

/-- A write keeps the canonical form. -/
theorem Map.wf_set {α : Type} [DecidableEq α] (d : α) (m : Map α) (a : Nat) (x : α) (h : Map.wf d m = true) :
    Map.wf d (Map.set d m a x) = true := by
  unfold Map.set Map.wf
  split
  · rw [Map.del_eq_filter]; exact Map.wfFrom_filter d _ m none h
  · rename_i hx; exact Map.wfFrom_put d m none a x hx (by simp) h

theorem Map.wf_filter {α : Type} [DecidableEq α] (d : α) (p : Nat × α → Bool) (m : Map α) (h : Map.wf d m = true) :
    Map.wf d (m.filter p) = true := Map.wfFrom_filter d p m none h

end Sys2Proof.Machine
end

