-- ==== Sys2Proof/Laws/Memory.lean ====
section
/-! SUPPORT. Laws of memory: what a read of one byte sees after each operation, and that each keeps the canonical form. -/

namespace Sys2Proof.Machine

theorem Memory.read_write (m : List Host.Cell) (a b : Nat) (v : Byte) :
    Memory.read (Memory.write m a v) b = if b = a then v else Memory.read m b := Map.get_set memDefault m a b v

/-- A run of bytes written at a: inside it the run's byte, outside it what was there. -/
theorem Memory.read_writeAll (m : List Host.Cell) (a b : Nat) (bs : List Byte) :
    Memory.read (Memory.writeAll m a bs) b =
      if a ≤ b ∧ b < a + bs.length then bs.getD (b - a) 0 else Memory.read m b := by
  induction bs generalizing m a with
  | nil =>
    rw [if_neg (by simp only [List.length_nil]; omega)]; rfl
  | cons c bs ih =>
    simp only [Memory.writeAll, ih, Memory.read_write, List.length_cons]
    by_cases h1 : b = a
    · subst h1
      have h2 : ¬ (b + 1 ≤ b ∧ b < b + 1 + bs.length) := by omega
      have h3 : b ≤ b ∧ b < b + (bs.length + 1) := by omega
      simp [h2, h3]
    · by_cases h2 : a + 1 ≤ b ∧ b < a + 1 + bs.length
      · have h3 : a ≤ b ∧ b < a + (bs.length + 1) := by omega
        obtain ⟨n, hn⟩ : ∃ n, b - a = n + 1 := ⟨b - a - 1, by omega⟩
        have h4 : b - (a + 1) = n := by omega
        rw [if_pos h2, if_pos h3, hn, h4]
        simp [List.getD]
      · have h3 : ¬ (a ≤ b ∧ b < a + (bs.length + 1)) := by omega
        rw [if_neg h2, if_neg h3, if_neg h1]

/-- A byte of a zeroed range reads zero, any other as before. -/
theorem Memory.read_zero (m : List Host.Cell) (a n b : Nat) :
    Memory.read (Memory.zero m a n) b = if a ≤ b ∧ b < a + n then 0 else Memory.read m b := by
  induction m with
  | nil => simp [Memory.zero, Memory.read, Map.get, memDefault]
  | cons e m ih =>
    obtain ⟨k, v⟩ := e
    simp only [Memory.read, Memory.zero] at ih
    simp only [Memory.read, Memory.zero, List.filter_cons]
    by_cases hk : a ≤ k ∧ k < a + n
    · simp only [hk.1, hk.2, decide_true, Bool.and_self, Bool.not_true, Bool.false_eq_true, if_false, ih, Map.get]
      by_cases hb : b = k
      · subst hb; simp [hk]
      · simp [hb]
    · have hk' : (!(decide (a ≤ k) && decide (k < a + n))) = true := by
        simp only [Bool.not_eq_true', Bool.and_eq_false_iff, decide_eq_false_iff_not]; omega
      simp only [hk', if_true, Map.get, ih]
      by_cases hb : b = k
      · subst hb; simp [hk]
      · simp [hb]

theorem Memory.wf_write (m : List Host.Cell) (a : Nat) (v : Byte) (h : Memory.wf m = true) :
    Memory.wf (Memory.write m a v) = true := Map.wf_set memDefault m a v h
theorem Memory.wf_writeAll (m : List Host.Cell) (a : Nat) (bs : List Byte) (h : Memory.wf m = true) :
    Memory.wf (Memory.writeAll m a bs) = true := by
  induction bs generalizing m a with
  | nil => exact h
  | cons c bs ih => exact ih _ _ (Memory.wf_write m a c h)
theorem Memory.wf_zero (m : List Host.Cell) (a n : Nat) (h : Memory.wf m = true) : Memory.wf (Memory.zero m a n) = true :=
  Map.wf_filter memDefault _ m h
theorem Memory.wf_filter (m : List Host.Cell) (p : Host.Cell → Bool) (h : Memory.wf m = true) : Memory.wf (m.filter p) = true :=
  Map.wf_filter memDefault p m h

theorem State.wf_putBytes (s : State) (a : Nat) (bs : List Byte) (h : Memory.wf s.mem = true) :
    Memory.wf (s.putBytes a bs).mem = true := Memory.wf_writeAll s.mem a bs h
theorem State.wf_zeroRange (s : State) (a n : Nat) (h : Memory.wf s.mem = true) : Memory.wf (s.zeroRange a n).mem = true :=
  Memory.wf_zero s.mem a n h
theorem State.wf_putMasked (s : State) (a : Nat) (bs : List Byte) (mask : Nat) (h : Memory.wf s.mem = true) :
    Memory.wf (s.putMasked a bs mask).mem = true := by
  unfold State.putMasked
  generalize List.range 64 = l
  induction l generalizing s with
  | nil => exact h
  | cons j l ih =>
    simp only [List.foldl_cons]
    apply ih
    split
    · exact State.wf_putBytes _ _ _ h
    · exact h
theorem State.wf_copyRange (s : State) (src dst n : Nat) (h : Memory.wf s.mem = true) :
    Memory.wf (s.copyRange src dst n).mem = true := by
  simp only [State.copyRange]
  generalize s.mem.filter _ = l
  have h' : Memory.wf (s.zeroRange dst n).mem = true := State.wf_zeroRange s dst n h
  revert h'
  generalize (s.zeroRange dst n).mem = m
  induction l generalizing m with
  | nil => exact id
  | cons e l ih => intro h'; exact ih _ (Memory.wf_write m _ _ h')

theorem State.reset_wf : Memory.wf State.reset.mem = true := rfl

/-- A read of one byte after a run of bytes is put down. -/
theorem State.byte_putBytes (s : State) (a b : Nat) (bs : List Byte) :
    (s.putBytes a bs).byte b = if a ≤ b ∧ b < a + bs.length then bs.getD (b - a) 0 else s.byte b :=
  Memory.read_writeAll s.mem a b bs
theorem State.byte_zeroRange (s : State) (a n b : Nat) :
    (s.zeroRange a n).byte b = if a ≤ b ∧ b < a + n then 0 else s.byte b := Memory.read_zero s.mem a n b

end Sys2Proof.Machine
end

