-- ==== Sys2Proof/Laws/State.lean ====
section
/-! SUPPORT. One lemma for each field of `State` under each of its named updates, and what the accessors read after them. -/

namespace Sys2Proof.Machine

variable (s : State)

/- setCtx -/
@[simp] theorem State.setCtx_g (cx : Nat) (c : Ctx) : (s.setCtx cx c).g = s.g := rfl
@[simp] theorem State.setCtx_mem (cx : Nat) (c : Ctx) : (s.setCtx cx c).mem = s.mem := rfl
@[simp] theorem State.setCtx_cores (cx : Nat) (c : Ctx) : (s.setCtx cx c).cores = s.cores := rfl
@[simp] theorem State.setCtx_regs (cx : Nat) (c : Ctx) : (s.setCtx cx c).regs = s.regs := rfl
@[simp] theorem State.setCtx_die (cx : Nat) (c : Ctx) : (s.setCtx cx c).die = s.die := rfl
@[simp] theorem State.setCtx_retiring (cx : Nat) (c : Ctx) : (s.setCtx cx c).retiring = s.retiring := rfl
@[simp] theorem State.setCtx_fenced (cx : Nat) (c : Ctx) : (s.setCtx cx c).fenced = s.fenced := rfl
@[simp] theorem State.setCtx_remap (cx : Nat) (c : Ctx) : (s.setCtx cx c).remap = s.remap := rfl
@[simp] theorem State.setCtx_repairs (cx : Nat) (c : Ctx) : (s.setCtx cx c).repairs = s.repairs := rfl
@[simp] theorem State.setCtx_tripped (cx : Nat) (c : Ctx) : (s.setCtx cx c).tripped = s.tripped := rfl
@[simp] theorem State.setCtx_portDown (cx : Nat) (c : Ctx) : (s.setCtx cx c).portDown = s.portDown := rfl
@[simp] theorem State.setCtx_laneUsed (cx : Nat) (c : Ctx) : (s.setCtx cx c).laneUsed = s.laneUsed := rfl
@[simp] theorem State.setCtx_retrain (cx : Nat) (c : Ctx) : (s.setCtx cx c).retrain = s.retrain := rfl
@[simp] theorem State.setCtx_vfOn (cx : Nat) (c : Ctx) : (s.setCtx cx c).vfOn = s.vfOn := rfl
@[simp] theorem State.setCtx_pri (cx : Nat) (c : Ctx) : (s.setCtx cx c).pri = s.pri := rfl
@[simp] theorem State.setCtx_priUsed (cx : Nat) (c : Ctx) : (s.setCtx cx c).priUsed = s.priUsed := rfl
@[simp] theorem State.setCtx_atc (cx : Nat) (c : Ctx) : (s.setCtx cx c).atc = s.atc := rfl
@[simp] theorem State.setCtx_ats (cx : Nat) (c : Ctx) : (s.setCtx cx c).ats = s.ats := rfl
@[simp] theorem State.setCtx_inval (cx : Nat) (c : Ctx) : (s.setCtx cx c).inval = s.inval := rfl
@[simp] theorem State.setCtx_waits (cx : Nat) (c : Ctx) : (s.setCtx cx c).waits = s.waits := rfl
@[simp] theorem State.setCtx_answers (cx : Nat) (c : Ctx) : (s.setCtx cx c).answers = s.answers := rfl
@[simp] theorem State.setCtx_wants (cx : Nat) (c : Ctx) : (s.setCtx cx c).wants = s.wants := rfl
@[simp] theorem State.setCtx_outbox (cx : Nat) (c : Ctx) : (s.setCtx cx c).outbox = s.outbox := rfl
@[simp] theorem State.setCtx_fwHeader (cx : Nat) (c : Ctx) : (s.setCtx cx c).fwHeader = s.fwHeader := rfl
@[simp] theorem State.setCtx_fwBusy (cx : Nat) (c : Ctx) : (s.setCtx cx c).fwBusy = s.fwBusy := rfl
@[simp] theorem State.setCtx_fwRun (cx : Nat) (c : Ctx) : (s.setCtx cx c).fwRun = s.fwRun := rfl
@[simp] theorem State.setCtx_svnMin (cx : Nat) (c : Ctx) : (s.setCtx cx c).svnMin = s.svnMin := rfl
@[simp] theorem State.setCtx_spdm (cx : Nat) (c : Ctx) : (s.setCtx cx c).spdm = s.spdm := rfl
@[simp] theorem State.setCtx_ide (cx : Nat) (c : Ctx) : (s.setCtx cx c).ide = s.ide := rfl
@[simp] theorem State.setCtx_tdisp (cx : Nat) (c : Ctx) : (s.setCtx cx c).tdisp = s.tdisp := rfl
@[simp] theorem State.setCtx_bin (cx : Nat) (c : Ctx) : (s.setCtx cx c).bin = s.bin := rfl
@[simp] theorem State.setCtx_tier (cx : Nat) (c : Ctx) : (s.setCtx cx c).tier = s.tier := rfl
@[simp] theorem State.setCtx_pilot (cx : Nat) (c : Ctx) : (s.setCtx cx c).pilot = s.pilot := rfl
@[simp] theorem State.setCtx_posted (cx : Nat) (c : Ctx) : (s.setCtx cx c).posted = s.posted := rfl
@[simp] theorem State.setCtx_colls (cx : Nat) (c : Ctx) : (s.setCtx cx c).colls = s.colls := rfl
@[simp] theorem State.setCtx_owed (cx : Nat) (c : Ctx) : (s.setCtx cx c).owed = s.owed := rfl
@[simp] theorem State.setCtx_nextId (cx : Nat) (c : Ctx) : (s.setCtx cx c).nextId = s.nextId := rfl
@[simp] theorem State.setCtx_fresh (cx : Nat) (c : Ctx) : (s.setCtx cx c).fresh = s.fresh := rfl
@[simp] theorem State.setCtx_iss (cx : Nat) (c : Ctx) : (s.setCtx cx c).iss = s.iss := rfl
@[simp] theorem State.setCtx_mover (cx : Nat) (c : Ctx) : (s.setCtx cx c).mover = s.mover := rfl
@[simp] theorem State.setCtx_todo (cx : Nat) (c : Ctx) : (s.setCtx cx c).todo = s.todo := rfl
@[simp] theorem State.setCtx_agenda (cx : Nat) (c : Ctx) : (s.setCtx cx c).agenda = s.agenda := rfl
/- setCore -/
@[simp] theorem State.setCore_g (n : Nat) (k : Core) : (s.setCore n k).g = s.g := rfl
@[simp] theorem State.setCore_mem (n : Nat) (k : Core) : (s.setCore n k).mem = s.mem := rfl
@[simp] theorem State.setCore_ctxs (n : Nat) (k : Core) : (s.setCore n k).ctxs = s.ctxs := rfl
@[simp] theorem State.setCore_regs (n : Nat) (k : Core) : (s.setCore n k).regs = s.regs := rfl
@[simp] theorem State.setCore_die (n : Nat) (k : Core) : (s.setCore n k).die = s.die := rfl
@[simp] theorem State.setCore_retiring (n : Nat) (k : Core) : (s.setCore n k).retiring = s.retiring := rfl
@[simp] theorem State.setCore_fenced (n : Nat) (k : Core) : (s.setCore n k).fenced = s.fenced := rfl
@[simp] theorem State.setCore_remap (n : Nat) (k : Core) : (s.setCore n k).remap = s.remap := rfl
@[simp] theorem State.setCore_repairs (n : Nat) (k : Core) : (s.setCore n k).repairs = s.repairs := rfl
@[simp] theorem State.setCore_tripped (n : Nat) (k : Core) : (s.setCore n k).tripped = s.tripped := rfl
@[simp] theorem State.setCore_portDown (n : Nat) (k : Core) : (s.setCore n k).portDown = s.portDown := rfl
@[simp] theorem State.setCore_laneUsed (n : Nat) (k : Core) : (s.setCore n k).laneUsed = s.laneUsed := rfl
@[simp] theorem State.setCore_retrain (n : Nat) (k : Core) : (s.setCore n k).retrain = s.retrain := rfl
@[simp] theorem State.setCore_vfOn (n : Nat) (k : Core) : (s.setCore n k).vfOn = s.vfOn := rfl
@[simp] theorem State.setCore_pri (n : Nat) (k : Core) : (s.setCore n k).pri = s.pri := rfl
@[simp] theorem State.setCore_priUsed (n : Nat) (k : Core) : (s.setCore n k).priUsed = s.priUsed := rfl
@[simp] theorem State.setCore_atc (n : Nat) (k : Core) : (s.setCore n k).atc = s.atc := rfl
@[simp] theorem State.setCore_ats (n : Nat) (k : Core) : (s.setCore n k).ats = s.ats := rfl
@[simp] theorem State.setCore_inval (n : Nat) (k : Core) : (s.setCore n k).inval = s.inval := rfl
@[simp] theorem State.setCore_waits (n : Nat) (k : Core) : (s.setCore n k).waits = s.waits := rfl
@[simp] theorem State.setCore_answers (n : Nat) (k : Core) : (s.setCore n k).answers = s.answers := rfl
@[simp] theorem State.setCore_wants (n : Nat) (k : Core) : (s.setCore n k).wants = s.wants := rfl
@[simp] theorem State.setCore_outbox (n : Nat) (k : Core) : (s.setCore n k).outbox = s.outbox := rfl
@[simp] theorem State.setCore_fwHeader (n : Nat) (k : Core) : (s.setCore n k).fwHeader = s.fwHeader := rfl
@[simp] theorem State.setCore_fwBusy (n : Nat) (k : Core) : (s.setCore n k).fwBusy = s.fwBusy := rfl
@[simp] theorem State.setCore_fwRun (n : Nat) (k : Core) : (s.setCore n k).fwRun = s.fwRun := rfl
@[simp] theorem State.setCore_svnMin (n : Nat) (k : Core) : (s.setCore n k).svnMin = s.svnMin := rfl
@[simp] theorem State.setCore_spdm (n : Nat) (k : Core) : (s.setCore n k).spdm = s.spdm := rfl
@[simp] theorem State.setCore_ide (n : Nat) (k : Core) : (s.setCore n k).ide = s.ide := rfl
@[simp] theorem State.setCore_tdisp (n : Nat) (k : Core) : (s.setCore n k).tdisp = s.tdisp := rfl
@[simp] theorem State.setCore_bin (n : Nat) (k : Core) : (s.setCore n k).bin = s.bin := rfl
@[simp] theorem State.setCore_tier (n : Nat) (k : Core) : (s.setCore n k).tier = s.tier := rfl
@[simp] theorem State.setCore_pilot (n : Nat) (k : Core) : (s.setCore n k).pilot = s.pilot := rfl
@[simp] theorem State.setCore_posted (n : Nat) (k : Core) : (s.setCore n k).posted = s.posted := rfl
@[simp] theorem State.setCore_colls (n : Nat) (k : Core) : (s.setCore n k).colls = s.colls := rfl
@[simp] theorem State.setCore_owed (n : Nat) (k : Core) : (s.setCore n k).owed = s.owed := rfl
@[simp] theorem State.setCore_nextId (n : Nat) (k : Core) : (s.setCore n k).nextId = s.nextId := rfl
@[simp] theorem State.setCore_fresh (n : Nat) (k : Core) : (s.setCore n k).fresh = s.fresh := rfl
@[simp] theorem State.setCore_iss (n : Nat) (k : Core) : (s.setCore n k).iss = s.iss := rfl
@[simp] theorem State.setCore_mover (n : Nat) (k : Core) : (s.setCore n k).mover = s.mover := rfl
@[simp] theorem State.setCore_todo (n : Nat) (k : Core) : (s.setCore n k).todo = s.todo := rfl
@[simp] theorem State.setCore_agenda (n : Nat) (k : Core) : (s.setCore n k).agenda = s.agenda := rfl
/- setReg -/
@[simp] theorem State.setReg_g (k : Nat) (v : Word) : (s.setReg k v).g = s.g := rfl
@[simp] theorem State.setReg_mem (k : Nat) (v : Word) : (s.setReg k v).mem = s.mem := rfl
@[simp] theorem State.setReg_ctxs (k : Nat) (v : Word) : (s.setReg k v).ctxs = s.ctxs := rfl
@[simp] theorem State.setReg_cores (k : Nat) (v : Word) : (s.setReg k v).cores = s.cores := rfl
@[simp] theorem State.setReg_die (k : Nat) (v : Word) : (s.setReg k v).die = s.die := rfl
@[simp] theorem State.setReg_retiring (k : Nat) (v : Word) : (s.setReg k v).retiring = s.retiring := rfl
@[simp] theorem State.setReg_fenced (k : Nat) (v : Word) : (s.setReg k v).fenced = s.fenced := rfl
@[simp] theorem State.setReg_remap (k : Nat) (v : Word) : (s.setReg k v).remap = s.remap := rfl
@[simp] theorem State.setReg_repairs (k : Nat) (v : Word) : (s.setReg k v).repairs = s.repairs := rfl
@[simp] theorem State.setReg_tripped (k : Nat) (v : Word) : (s.setReg k v).tripped = s.tripped := rfl
@[simp] theorem State.setReg_portDown (k : Nat) (v : Word) : (s.setReg k v).portDown = s.portDown := rfl
@[simp] theorem State.setReg_laneUsed (k : Nat) (v : Word) : (s.setReg k v).laneUsed = s.laneUsed := rfl
@[simp] theorem State.setReg_retrain (k : Nat) (v : Word) : (s.setReg k v).retrain = s.retrain := rfl
@[simp] theorem State.setReg_vfOn (k : Nat) (v : Word) : (s.setReg k v).vfOn = s.vfOn := rfl
@[simp] theorem State.setReg_pri (k : Nat) (v : Word) : (s.setReg k v).pri = s.pri := rfl
@[simp] theorem State.setReg_priUsed (k : Nat) (v : Word) : (s.setReg k v).priUsed = s.priUsed := rfl
@[simp] theorem State.setReg_atc (k : Nat) (v : Word) : (s.setReg k v).atc = s.atc := rfl
@[simp] theorem State.setReg_ats (k : Nat) (v : Word) : (s.setReg k v).ats = s.ats := rfl
@[simp] theorem State.setReg_inval (k : Nat) (v : Word) : (s.setReg k v).inval = s.inval := rfl
@[simp] theorem State.setReg_waits (k : Nat) (v : Word) : (s.setReg k v).waits = s.waits := rfl
@[simp] theorem State.setReg_answers (k : Nat) (v : Word) : (s.setReg k v).answers = s.answers := rfl
@[simp] theorem State.setReg_wants (k : Nat) (v : Word) : (s.setReg k v).wants = s.wants := rfl
@[simp] theorem State.setReg_outbox (k : Nat) (v : Word) : (s.setReg k v).outbox = s.outbox := rfl
@[simp] theorem State.setReg_fwHeader (k : Nat) (v : Word) : (s.setReg k v).fwHeader = s.fwHeader := rfl
@[simp] theorem State.setReg_fwBusy (k : Nat) (v : Word) : (s.setReg k v).fwBusy = s.fwBusy := rfl
@[simp] theorem State.setReg_fwRun (k : Nat) (v : Word) : (s.setReg k v).fwRun = s.fwRun := rfl
@[simp] theorem State.setReg_svnMin (k : Nat) (v : Word) : (s.setReg k v).svnMin = s.svnMin := rfl
@[simp] theorem State.setReg_spdm (k : Nat) (v : Word) : (s.setReg k v).spdm = s.spdm := rfl
@[simp] theorem State.setReg_ide (k : Nat) (v : Word) : (s.setReg k v).ide = s.ide := rfl
@[simp] theorem State.setReg_tdisp (k : Nat) (v : Word) : (s.setReg k v).tdisp = s.tdisp := rfl
@[simp] theorem State.setReg_bin (k : Nat) (v : Word) : (s.setReg k v).bin = s.bin := rfl
@[simp] theorem State.setReg_tier (k : Nat) (v : Word) : (s.setReg k v).tier = s.tier := rfl
@[simp] theorem State.setReg_pilot (k : Nat) (v : Word) : (s.setReg k v).pilot = s.pilot := rfl
@[simp] theorem State.setReg_posted (k : Nat) (v : Word) : (s.setReg k v).posted = s.posted := rfl
@[simp] theorem State.setReg_colls (k : Nat) (v : Word) : (s.setReg k v).colls = s.colls := rfl
@[simp] theorem State.setReg_owed (k : Nat) (v : Word) : (s.setReg k v).owed = s.owed := rfl
@[simp] theorem State.setReg_nextId (k : Nat) (v : Word) : (s.setReg k v).nextId = s.nextId := rfl
@[simp] theorem State.setReg_fresh (k : Nat) (v : Word) : (s.setReg k v).fresh = s.fresh := rfl
@[simp] theorem State.setReg_iss (k : Nat) (v : Word) : (s.setReg k v).iss = s.iss := rfl
@[simp] theorem State.setReg_mover (k : Nat) (v : Word) : (s.setReg k v).mover = s.mover := rfl
@[simp] theorem State.setReg_todo (k : Nat) (v : Word) : (s.setReg k v).todo = s.todo := rfl
@[simp] theorem State.setReg_agenda (k : Nat) (v : Word) : (s.setReg k v).agenda = s.agenda := rfl
/- modTier -/
@[simp] theorem State.modTier_g (f : Tier → Tier) : (s.modTier f).g = s.g := rfl
@[simp] theorem State.modTier_mem (f : Tier → Tier) : (s.modTier f).mem = s.mem := rfl
@[simp] theorem State.modTier_ctxs (f : Tier → Tier) : (s.modTier f).ctxs = s.ctxs := rfl
@[simp] theorem State.modTier_cores (f : Tier → Tier) : (s.modTier f).cores = s.cores := rfl
@[simp] theorem State.modTier_regs (f : Tier → Tier) : (s.modTier f).regs = s.regs := rfl
@[simp] theorem State.modTier_die (f : Tier → Tier) : (s.modTier f).die = s.die := rfl
@[simp] theorem State.modTier_retiring (f : Tier → Tier) : (s.modTier f).retiring = s.retiring := rfl
@[simp] theorem State.modTier_fenced (f : Tier → Tier) : (s.modTier f).fenced = s.fenced := rfl
@[simp] theorem State.modTier_remap (f : Tier → Tier) : (s.modTier f).remap = s.remap := rfl
@[simp] theorem State.modTier_repairs (f : Tier → Tier) : (s.modTier f).repairs = s.repairs := rfl
@[simp] theorem State.modTier_tripped (f : Tier → Tier) : (s.modTier f).tripped = s.tripped := rfl
@[simp] theorem State.modTier_portDown (f : Tier → Tier) : (s.modTier f).portDown = s.portDown := rfl
@[simp] theorem State.modTier_laneUsed (f : Tier → Tier) : (s.modTier f).laneUsed = s.laneUsed := rfl
@[simp] theorem State.modTier_retrain (f : Tier → Tier) : (s.modTier f).retrain = s.retrain := rfl
@[simp] theorem State.modTier_vfOn (f : Tier → Tier) : (s.modTier f).vfOn = s.vfOn := rfl
@[simp] theorem State.modTier_pri (f : Tier → Tier) : (s.modTier f).pri = s.pri := rfl
@[simp] theorem State.modTier_priUsed (f : Tier → Tier) : (s.modTier f).priUsed = s.priUsed := rfl
@[simp] theorem State.modTier_atc (f : Tier → Tier) : (s.modTier f).atc = s.atc := rfl
@[simp] theorem State.modTier_ats (f : Tier → Tier) : (s.modTier f).ats = s.ats := rfl
@[simp] theorem State.modTier_inval (f : Tier → Tier) : (s.modTier f).inval = s.inval := rfl
@[simp] theorem State.modTier_waits (f : Tier → Tier) : (s.modTier f).waits = s.waits := rfl
@[simp] theorem State.modTier_answers (f : Tier → Tier) : (s.modTier f).answers = s.answers := rfl
@[simp] theorem State.modTier_wants (f : Tier → Tier) : (s.modTier f).wants = s.wants := rfl
@[simp] theorem State.modTier_outbox (f : Tier → Tier) : (s.modTier f).outbox = s.outbox := rfl
@[simp] theorem State.modTier_fwHeader (f : Tier → Tier) : (s.modTier f).fwHeader = s.fwHeader := rfl
@[simp] theorem State.modTier_fwBusy (f : Tier → Tier) : (s.modTier f).fwBusy = s.fwBusy := rfl
@[simp] theorem State.modTier_fwRun (f : Tier → Tier) : (s.modTier f).fwRun = s.fwRun := rfl
@[simp] theorem State.modTier_svnMin (f : Tier → Tier) : (s.modTier f).svnMin = s.svnMin := rfl
@[simp] theorem State.modTier_spdm (f : Tier → Tier) : (s.modTier f).spdm = s.spdm := rfl
@[simp] theorem State.modTier_ide (f : Tier → Tier) : (s.modTier f).ide = s.ide := rfl
@[simp] theorem State.modTier_tdisp (f : Tier → Tier) : (s.modTier f).tdisp = s.tdisp := rfl
@[simp] theorem State.modTier_bin (f : Tier → Tier) : (s.modTier f).bin = s.bin := rfl
@[simp] theorem State.modTier_pilot (f : Tier → Tier) : (s.modTier f).pilot = s.pilot := rfl
@[simp] theorem State.modTier_posted (f : Tier → Tier) : (s.modTier f).posted = s.posted := rfl
@[simp] theorem State.modTier_colls (f : Tier → Tier) : (s.modTier f).colls = s.colls := rfl
@[simp] theorem State.modTier_owed (f : Tier → Tier) : (s.modTier f).owed = s.owed := rfl
@[simp] theorem State.modTier_nextId (f : Tier → Tier) : (s.modTier f).nextId = s.nextId := rfl
@[simp] theorem State.modTier_fresh (f : Tier → Tier) : (s.modTier f).fresh = s.fresh := rfl
@[simp] theorem State.modTier_iss (f : Tier → Tier) : (s.modTier f).iss = s.iss := rfl
@[simp] theorem State.modTier_mover (f : Tier → Tier) : (s.modTier f).mover = s.mover := rfl
@[simp] theorem State.modTier_todo (f : Tier → Tier) : (s.modTier f).todo = s.todo := rfl
@[simp] theorem State.modTier_agenda (f : Tier → Tier) : (s.modTier f).agenda = s.agenda := rfl
/- modBin -/
@[simp] theorem State.modBin_g (f : Bin → Bin) : (s.modBin f).g = s.g := rfl
@[simp] theorem State.modBin_mem (f : Bin → Bin) : (s.modBin f).mem = s.mem := rfl
@[simp] theorem State.modBin_ctxs (f : Bin → Bin) : (s.modBin f).ctxs = s.ctxs := rfl
@[simp] theorem State.modBin_cores (f : Bin → Bin) : (s.modBin f).cores = s.cores := rfl
@[simp] theorem State.modBin_regs (f : Bin → Bin) : (s.modBin f).regs = s.regs := rfl
@[simp] theorem State.modBin_die (f : Bin → Bin) : (s.modBin f).die = s.die := rfl
@[simp] theorem State.modBin_retiring (f : Bin → Bin) : (s.modBin f).retiring = s.retiring := rfl
@[simp] theorem State.modBin_fenced (f : Bin → Bin) : (s.modBin f).fenced = s.fenced := rfl
@[simp] theorem State.modBin_remap (f : Bin → Bin) : (s.modBin f).remap = s.remap := rfl
@[simp] theorem State.modBin_repairs (f : Bin → Bin) : (s.modBin f).repairs = s.repairs := rfl
@[simp] theorem State.modBin_tripped (f : Bin → Bin) : (s.modBin f).tripped = s.tripped := rfl
@[simp] theorem State.modBin_portDown (f : Bin → Bin) : (s.modBin f).portDown = s.portDown := rfl
@[simp] theorem State.modBin_laneUsed (f : Bin → Bin) : (s.modBin f).laneUsed = s.laneUsed := rfl
@[simp] theorem State.modBin_retrain (f : Bin → Bin) : (s.modBin f).retrain = s.retrain := rfl
@[simp] theorem State.modBin_vfOn (f : Bin → Bin) : (s.modBin f).vfOn = s.vfOn := rfl
@[simp] theorem State.modBin_pri (f : Bin → Bin) : (s.modBin f).pri = s.pri := rfl
@[simp] theorem State.modBin_priUsed (f : Bin → Bin) : (s.modBin f).priUsed = s.priUsed := rfl
@[simp] theorem State.modBin_atc (f : Bin → Bin) : (s.modBin f).atc = s.atc := rfl
@[simp] theorem State.modBin_ats (f : Bin → Bin) : (s.modBin f).ats = s.ats := rfl
@[simp] theorem State.modBin_inval (f : Bin → Bin) : (s.modBin f).inval = s.inval := rfl
@[simp] theorem State.modBin_waits (f : Bin → Bin) : (s.modBin f).waits = s.waits := rfl
@[simp] theorem State.modBin_answers (f : Bin → Bin) : (s.modBin f).answers = s.answers := rfl
@[simp] theorem State.modBin_wants (f : Bin → Bin) : (s.modBin f).wants = s.wants := rfl
@[simp] theorem State.modBin_outbox (f : Bin → Bin) : (s.modBin f).outbox = s.outbox := rfl
@[simp] theorem State.modBin_fwHeader (f : Bin → Bin) : (s.modBin f).fwHeader = s.fwHeader := rfl
@[simp] theorem State.modBin_fwBusy (f : Bin → Bin) : (s.modBin f).fwBusy = s.fwBusy := rfl
@[simp] theorem State.modBin_fwRun (f : Bin → Bin) : (s.modBin f).fwRun = s.fwRun := rfl
@[simp] theorem State.modBin_svnMin (f : Bin → Bin) : (s.modBin f).svnMin = s.svnMin := rfl
@[simp] theorem State.modBin_spdm (f : Bin → Bin) : (s.modBin f).spdm = s.spdm := rfl
@[simp] theorem State.modBin_ide (f : Bin → Bin) : (s.modBin f).ide = s.ide := rfl
@[simp] theorem State.modBin_tdisp (f : Bin → Bin) : (s.modBin f).tdisp = s.tdisp := rfl
@[simp] theorem State.modBin_tier (f : Bin → Bin) : (s.modBin f).tier = s.tier := rfl
@[simp] theorem State.modBin_pilot (f : Bin → Bin) : (s.modBin f).pilot = s.pilot := rfl
@[simp] theorem State.modBin_posted (f : Bin → Bin) : (s.modBin f).posted = s.posted := rfl
@[simp] theorem State.modBin_colls (f : Bin → Bin) : (s.modBin f).colls = s.colls := rfl
@[simp] theorem State.modBin_owed (f : Bin → Bin) : (s.modBin f).owed = s.owed := rfl
@[simp] theorem State.modBin_nextId (f : Bin → Bin) : (s.modBin f).nextId = s.nextId := rfl
@[simp] theorem State.modBin_fresh (f : Bin → Bin) : (s.modBin f).fresh = s.fresh := rfl
@[simp] theorem State.modBin_iss (f : Bin → Bin) : (s.modBin f).iss = s.iss := rfl
@[simp] theorem State.modBin_mover (f : Bin → Bin) : (s.modBin f).mover = s.mover := rfl
@[simp] theorem State.modBin_todo (f : Bin → Bin) : (s.modBin f).todo = s.todo := rfl
@[simp] theorem State.modBin_agenda (f : Bin → Bin) : (s.modBin f).agenda = s.agenda := rfl
/- setCrew -/
@[simp] theorem State.setCrew_g (id : Nat) (c : Crew) : (s.setCrew id c).g = s.g := rfl
@[simp] theorem State.setCrew_mem (id : Nat) (c : Crew) : (s.setCrew id c).mem = s.mem := rfl
@[simp] theorem State.setCrew_ctxs (id : Nat) (c : Crew) : (s.setCrew id c).ctxs = s.ctxs := rfl
@[simp] theorem State.setCrew_cores (id : Nat) (c : Crew) : (s.setCrew id c).cores = s.cores := rfl
@[simp] theorem State.setCrew_regs (id : Nat) (c : Crew) : (s.setCrew id c).regs = s.regs := rfl
@[simp] theorem State.setCrew_die (id : Nat) (c : Crew) : (s.setCrew id c).die = s.die := rfl
@[simp] theorem State.setCrew_retiring (id : Nat) (c : Crew) : (s.setCrew id c).retiring = s.retiring := rfl
@[simp] theorem State.setCrew_fenced (id : Nat) (c : Crew) : (s.setCrew id c).fenced = s.fenced := rfl
@[simp] theorem State.setCrew_remap (id : Nat) (c : Crew) : (s.setCrew id c).remap = s.remap := rfl
@[simp] theorem State.setCrew_repairs (id : Nat) (c : Crew) : (s.setCrew id c).repairs = s.repairs := rfl
@[simp] theorem State.setCrew_tripped (id : Nat) (c : Crew) : (s.setCrew id c).tripped = s.tripped := rfl
@[simp] theorem State.setCrew_portDown (id : Nat) (c : Crew) : (s.setCrew id c).portDown = s.portDown := rfl
@[simp] theorem State.setCrew_laneUsed (id : Nat) (c : Crew) : (s.setCrew id c).laneUsed = s.laneUsed := rfl
@[simp] theorem State.setCrew_retrain (id : Nat) (c : Crew) : (s.setCrew id c).retrain = s.retrain := rfl
@[simp] theorem State.setCrew_vfOn (id : Nat) (c : Crew) : (s.setCrew id c).vfOn = s.vfOn := rfl
@[simp] theorem State.setCrew_pri (id : Nat) (c : Crew) : (s.setCrew id c).pri = s.pri := rfl
@[simp] theorem State.setCrew_priUsed (id : Nat) (c : Crew) : (s.setCrew id c).priUsed = s.priUsed := rfl
@[simp] theorem State.setCrew_atc (id : Nat) (c : Crew) : (s.setCrew id c).atc = s.atc := rfl
@[simp] theorem State.setCrew_ats (id : Nat) (c : Crew) : (s.setCrew id c).ats = s.ats := rfl
@[simp] theorem State.setCrew_inval (id : Nat) (c : Crew) : (s.setCrew id c).inval = s.inval := rfl
@[simp] theorem State.setCrew_waits (id : Nat) (c : Crew) : (s.setCrew id c).waits = s.waits := rfl
@[simp] theorem State.setCrew_answers (id : Nat) (c : Crew) : (s.setCrew id c).answers = s.answers := rfl
@[simp] theorem State.setCrew_wants (id : Nat) (c : Crew) : (s.setCrew id c).wants = s.wants := rfl
@[simp] theorem State.setCrew_outbox (id : Nat) (c : Crew) : (s.setCrew id c).outbox = s.outbox := rfl
@[simp] theorem State.setCrew_fwHeader (id : Nat) (c : Crew) : (s.setCrew id c).fwHeader = s.fwHeader := rfl
@[simp] theorem State.setCrew_fwBusy (id : Nat) (c : Crew) : (s.setCrew id c).fwBusy = s.fwBusy := rfl
@[simp] theorem State.setCrew_fwRun (id : Nat) (c : Crew) : (s.setCrew id c).fwRun = s.fwRun := rfl
@[simp] theorem State.setCrew_svnMin (id : Nat) (c : Crew) : (s.setCrew id c).svnMin = s.svnMin := rfl
@[simp] theorem State.setCrew_spdm (id : Nat) (c : Crew) : (s.setCrew id c).spdm = s.spdm := rfl
@[simp] theorem State.setCrew_ide (id : Nat) (c : Crew) : (s.setCrew id c).ide = s.ide := rfl
@[simp] theorem State.setCrew_tdisp (id : Nat) (c : Crew) : (s.setCrew id c).tdisp = s.tdisp := rfl
@[simp] theorem State.setCrew_bin (id : Nat) (c : Crew) : (s.setCrew id c).bin = s.bin := rfl
@[simp] theorem State.setCrew_tier (id : Nat) (c : Crew) : (s.setCrew id c).tier = s.tier := rfl
@[simp] theorem State.setCrew_posted (id : Nat) (c : Crew) : (s.setCrew id c).posted = s.posted := rfl
@[simp] theorem State.setCrew_colls (id : Nat) (c : Crew) : (s.setCrew id c).colls = s.colls := rfl
@[simp] theorem State.setCrew_owed (id : Nat) (c : Crew) : (s.setCrew id c).owed = s.owed := rfl
@[simp] theorem State.setCrew_nextId (id : Nat) (c : Crew) : (s.setCrew id c).nextId = s.nextId := rfl
@[simp] theorem State.setCrew_fresh (id : Nat) (c : Crew) : (s.setCrew id c).fresh = s.fresh := rfl
@[simp] theorem State.setCrew_iss (id : Nat) (c : Crew) : (s.setCrew id c).iss = s.iss := rfl
@[simp] theorem State.setCrew_mover (id : Nat) (c : Crew) : (s.setCrew id c).mover = s.mover := rfl
@[simp] theorem State.setCrew_todo (id : Nat) (c : Crew) : (s.setCrew id c).todo = s.todo := rfl
@[simp] theorem State.setCrew_agenda (id : Nat) (c : Crew) : (s.setCrew id c).agenda = s.agenda := rfl
/- putBytes -/
@[simp] theorem State.putBytes_g (a : Nat) (bs : List Byte) : (s.putBytes a bs).g = s.g := rfl
@[simp] theorem State.putBytes_ctxs (a : Nat) (bs : List Byte) : (s.putBytes a bs).ctxs = s.ctxs := rfl
@[simp] theorem State.putBytes_cores (a : Nat) (bs : List Byte) : (s.putBytes a bs).cores = s.cores := rfl
@[simp] theorem State.putBytes_regs (a : Nat) (bs : List Byte) : (s.putBytes a bs).regs = s.regs := rfl
@[simp] theorem State.putBytes_die (a : Nat) (bs : List Byte) : (s.putBytes a bs).die = s.die := rfl
@[simp] theorem State.putBytes_retiring (a : Nat) (bs : List Byte) : (s.putBytes a bs).retiring = s.retiring := rfl
@[simp] theorem State.putBytes_fenced (a : Nat) (bs : List Byte) : (s.putBytes a bs).fenced = s.fenced := rfl
@[simp] theorem State.putBytes_remap (a : Nat) (bs : List Byte) : (s.putBytes a bs).remap = s.remap := rfl
@[simp] theorem State.putBytes_repairs (a : Nat) (bs : List Byte) : (s.putBytes a bs).repairs = s.repairs := rfl
@[simp] theorem State.putBytes_tripped (a : Nat) (bs : List Byte) : (s.putBytes a bs).tripped = s.tripped := rfl
@[simp] theorem State.putBytes_portDown (a : Nat) (bs : List Byte) : (s.putBytes a bs).portDown = s.portDown := rfl
@[simp] theorem State.putBytes_laneUsed (a : Nat) (bs : List Byte) : (s.putBytes a bs).laneUsed = s.laneUsed := rfl
@[simp] theorem State.putBytes_retrain (a : Nat) (bs : List Byte) : (s.putBytes a bs).retrain = s.retrain := rfl
@[simp] theorem State.putBytes_vfOn (a : Nat) (bs : List Byte) : (s.putBytes a bs).vfOn = s.vfOn := rfl
@[simp] theorem State.putBytes_pri (a : Nat) (bs : List Byte) : (s.putBytes a bs).pri = s.pri := rfl
@[simp] theorem State.putBytes_priUsed (a : Nat) (bs : List Byte) : (s.putBytes a bs).priUsed = s.priUsed := rfl
@[simp] theorem State.putBytes_atc (a : Nat) (bs : List Byte) : (s.putBytes a bs).atc = s.atc := rfl
@[simp] theorem State.putBytes_ats (a : Nat) (bs : List Byte) : (s.putBytes a bs).ats = s.ats := rfl
@[simp] theorem State.putBytes_inval (a : Nat) (bs : List Byte) : (s.putBytes a bs).inval = s.inval := rfl
@[simp] theorem State.putBytes_waits (a : Nat) (bs : List Byte) : (s.putBytes a bs).waits = s.waits := rfl
@[simp] theorem State.putBytes_answers (a : Nat) (bs : List Byte) : (s.putBytes a bs).answers = s.answers := rfl
@[simp] theorem State.putBytes_wants (a : Nat) (bs : List Byte) : (s.putBytes a bs).wants = s.wants := rfl
@[simp] theorem State.putBytes_outbox (a : Nat) (bs : List Byte) : (s.putBytes a bs).outbox = s.outbox := rfl
@[simp] theorem State.putBytes_fwHeader (a : Nat) (bs : List Byte) : (s.putBytes a bs).fwHeader = s.fwHeader := rfl
@[simp] theorem State.putBytes_fwBusy (a : Nat) (bs : List Byte) : (s.putBytes a bs).fwBusy = s.fwBusy := rfl
@[simp] theorem State.putBytes_fwRun (a : Nat) (bs : List Byte) : (s.putBytes a bs).fwRun = s.fwRun := rfl
@[simp] theorem State.putBytes_svnMin (a : Nat) (bs : List Byte) : (s.putBytes a bs).svnMin = s.svnMin := rfl
@[simp] theorem State.putBytes_spdm (a : Nat) (bs : List Byte) : (s.putBytes a bs).spdm = s.spdm := rfl
@[simp] theorem State.putBytes_ide (a : Nat) (bs : List Byte) : (s.putBytes a bs).ide = s.ide := rfl
@[simp] theorem State.putBytes_tdisp (a : Nat) (bs : List Byte) : (s.putBytes a bs).tdisp = s.tdisp := rfl
@[simp] theorem State.putBytes_bin (a : Nat) (bs : List Byte) : (s.putBytes a bs).bin = s.bin := rfl
@[simp] theorem State.putBytes_tier (a : Nat) (bs : List Byte) : (s.putBytes a bs).tier = s.tier := rfl
@[simp] theorem State.putBytes_pilot (a : Nat) (bs : List Byte) : (s.putBytes a bs).pilot = s.pilot := rfl
@[simp] theorem State.putBytes_posted (a : Nat) (bs : List Byte) : (s.putBytes a bs).posted = s.posted := rfl
@[simp] theorem State.putBytes_colls (a : Nat) (bs : List Byte) : (s.putBytes a bs).colls = s.colls := rfl
@[simp] theorem State.putBytes_owed (a : Nat) (bs : List Byte) : (s.putBytes a bs).owed = s.owed := rfl
@[simp] theorem State.putBytes_nextId (a : Nat) (bs : List Byte) : (s.putBytes a bs).nextId = s.nextId := rfl
@[simp] theorem State.putBytes_fresh (a : Nat) (bs : List Byte) : (s.putBytes a bs).fresh = s.fresh := rfl
@[simp] theorem State.putBytes_iss (a : Nat) (bs : List Byte) : (s.putBytes a bs).iss = s.iss := rfl
@[simp] theorem State.putBytes_mover (a : Nat) (bs : List Byte) : (s.putBytes a bs).mover = s.mover := rfl
@[simp] theorem State.putBytes_todo (a : Nat) (bs : List Byte) : (s.putBytes a bs).todo = s.todo := rfl
@[simp] theorem State.putBytes_agenda (a : Nat) (bs : List Byte) : (s.putBytes a bs).agenda = s.agenda := rfl
/- zeroRange -/
@[simp] theorem State.zeroRange_g (a n : Nat) : (s.zeroRange a n).g = s.g := rfl
@[simp] theorem State.zeroRange_ctxs (a n : Nat) : (s.zeroRange a n).ctxs = s.ctxs := rfl
@[simp] theorem State.zeroRange_cores (a n : Nat) : (s.zeroRange a n).cores = s.cores := rfl
@[simp] theorem State.zeroRange_regs (a n : Nat) : (s.zeroRange a n).regs = s.regs := rfl
@[simp] theorem State.zeroRange_die (a n : Nat) : (s.zeroRange a n).die = s.die := rfl
@[simp] theorem State.zeroRange_retiring (a n : Nat) : (s.zeroRange a n).retiring = s.retiring := rfl
@[simp] theorem State.zeroRange_fenced (a n : Nat) : (s.zeroRange a n).fenced = s.fenced := rfl
@[simp] theorem State.zeroRange_remap (a n : Nat) : (s.zeroRange a n).remap = s.remap := rfl
@[simp] theorem State.zeroRange_repairs (a n : Nat) : (s.zeroRange a n).repairs = s.repairs := rfl
@[simp] theorem State.zeroRange_tripped (a n : Nat) : (s.zeroRange a n).tripped = s.tripped := rfl
@[simp] theorem State.zeroRange_portDown (a n : Nat) : (s.zeroRange a n).portDown = s.portDown := rfl
@[simp] theorem State.zeroRange_laneUsed (a n : Nat) : (s.zeroRange a n).laneUsed = s.laneUsed := rfl
@[simp] theorem State.zeroRange_retrain (a n : Nat) : (s.zeroRange a n).retrain = s.retrain := rfl
@[simp] theorem State.zeroRange_vfOn (a n : Nat) : (s.zeroRange a n).vfOn = s.vfOn := rfl
@[simp] theorem State.zeroRange_pri (a n : Nat) : (s.zeroRange a n).pri = s.pri := rfl
@[simp] theorem State.zeroRange_priUsed (a n : Nat) : (s.zeroRange a n).priUsed = s.priUsed := rfl
@[simp] theorem State.zeroRange_atc (a n : Nat) : (s.zeroRange a n).atc = s.atc := rfl
@[simp] theorem State.zeroRange_ats (a n : Nat) : (s.zeroRange a n).ats = s.ats := rfl
@[simp] theorem State.zeroRange_inval (a n : Nat) : (s.zeroRange a n).inval = s.inval := rfl
@[simp] theorem State.zeroRange_waits (a n : Nat) : (s.zeroRange a n).waits = s.waits := rfl
@[simp] theorem State.zeroRange_answers (a n : Nat) : (s.zeroRange a n).answers = s.answers := rfl
@[simp] theorem State.zeroRange_wants (a n : Nat) : (s.zeroRange a n).wants = s.wants := rfl
@[simp] theorem State.zeroRange_outbox (a n : Nat) : (s.zeroRange a n).outbox = s.outbox := rfl
@[simp] theorem State.zeroRange_fwHeader (a n : Nat) : (s.zeroRange a n).fwHeader = s.fwHeader := rfl
@[simp] theorem State.zeroRange_fwBusy (a n : Nat) : (s.zeroRange a n).fwBusy = s.fwBusy := rfl
@[simp] theorem State.zeroRange_fwRun (a n : Nat) : (s.zeroRange a n).fwRun = s.fwRun := rfl
@[simp] theorem State.zeroRange_svnMin (a n : Nat) : (s.zeroRange a n).svnMin = s.svnMin := rfl
@[simp] theorem State.zeroRange_spdm (a n : Nat) : (s.zeroRange a n).spdm = s.spdm := rfl
@[simp] theorem State.zeroRange_ide (a n : Nat) : (s.zeroRange a n).ide = s.ide := rfl
@[simp] theorem State.zeroRange_tdisp (a n : Nat) : (s.zeroRange a n).tdisp = s.tdisp := rfl
@[simp] theorem State.zeroRange_bin (a n : Nat) : (s.zeroRange a n).bin = s.bin := rfl
@[simp] theorem State.zeroRange_tier (a n : Nat) : (s.zeroRange a n).tier = s.tier := rfl
@[simp] theorem State.zeroRange_pilot (a n : Nat) : (s.zeroRange a n).pilot = s.pilot := rfl
@[simp] theorem State.zeroRange_posted (a n : Nat) : (s.zeroRange a n).posted = s.posted := rfl
@[simp] theorem State.zeroRange_colls (a n : Nat) : (s.zeroRange a n).colls = s.colls := rfl
@[simp] theorem State.zeroRange_owed (a n : Nat) : (s.zeroRange a n).owed = s.owed := rfl
@[simp] theorem State.zeroRange_nextId (a n : Nat) : (s.zeroRange a n).nextId = s.nextId := rfl
@[simp] theorem State.zeroRange_fresh (a n : Nat) : (s.zeroRange a n).fresh = s.fresh := rfl
@[simp] theorem State.zeroRange_iss (a n : Nat) : (s.zeroRange a n).iss = s.iss := rfl
@[simp] theorem State.zeroRange_mover (a n : Nat) : (s.zeroRange a n).mover = s.mover := rfl
@[simp] theorem State.zeroRange_todo (a n : Nat) : (s.zeroRange a n).todo = s.todo := rfl
@[simp] theorem State.zeroRange_agenda (a n : Nat) : (s.zeroRange a n).agenda = s.agenda := rfl
/- send -/
@[simp] theorem State.send_g (o : Out) : (s.send o).g = s.g := rfl
@[simp] theorem State.send_mem (o : Out) : (s.send o).mem = s.mem := rfl
@[simp] theorem State.send_ctxs (o : Out) : (s.send o).ctxs = s.ctxs := rfl
@[simp] theorem State.send_cores (o : Out) : (s.send o).cores = s.cores := rfl
@[simp] theorem State.send_regs (o : Out) : (s.send o).regs = s.regs := rfl
@[simp] theorem State.send_die (o : Out) : (s.send o).die = s.die := rfl
@[simp] theorem State.send_retiring (o : Out) : (s.send o).retiring = s.retiring := rfl
@[simp] theorem State.send_fenced (o : Out) : (s.send o).fenced = s.fenced := rfl
@[simp] theorem State.send_remap (o : Out) : (s.send o).remap = s.remap := rfl
@[simp] theorem State.send_repairs (o : Out) : (s.send o).repairs = s.repairs := rfl
@[simp] theorem State.send_tripped (o : Out) : (s.send o).tripped = s.tripped := rfl
@[simp] theorem State.send_portDown (o : Out) : (s.send o).portDown = s.portDown := rfl
@[simp] theorem State.send_laneUsed (o : Out) : (s.send o).laneUsed = s.laneUsed := rfl
@[simp] theorem State.send_retrain (o : Out) : (s.send o).retrain = s.retrain := rfl
@[simp] theorem State.send_vfOn (o : Out) : (s.send o).vfOn = s.vfOn := rfl
@[simp] theorem State.send_pri (o : Out) : (s.send o).pri = s.pri := rfl
@[simp] theorem State.send_priUsed (o : Out) : (s.send o).priUsed = s.priUsed := rfl
@[simp] theorem State.send_atc (o : Out) : (s.send o).atc = s.atc := rfl
@[simp] theorem State.send_ats (o : Out) : (s.send o).ats = s.ats := rfl
@[simp] theorem State.send_inval (o : Out) : (s.send o).inval = s.inval := rfl
@[simp] theorem State.send_waits (o : Out) : (s.send o).waits = s.waits := rfl
@[simp] theorem State.send_answers (o : Out) : (s.send o).answers = s.answers := rfl
@[simp] theorem State.send_wants (o : Out) : (s.send o).wants = s.wants := rfl
@[simp] theorem State.send_fwHeader (o : Out) : (s.send o).fwHeader = s.fwHeader := rfl
@[simp] theorem State.send_fwBusy (o : Out) : (s.send o).fwBusy = s.fwBusy := rfl
@[simp] theorem State.send_fwRun (o : Out) : (s.send o).fwRun = s.fwRun := rfl
@[simp] theorem State.send_svnMin (o : Out) : (s.send o).svnMin = s.svnMin := rfl
@[simp] theorem State.send_spdm (o : Out) : (s.send o).spdm = s.spdm := rfl
@[simp] theorem State.send_ide (o : Out) : (s.send o).ide = s.ide := rfl
@[simp] theorem State.send_tdisp (o : Out) : (s.send o).tdisp = s.tdisp := rfl
@[simp] theorem State.send_bin (o : Out) : (s.send o).bin = s.bin := rfl
@[simp] theorem State.send_tier (o : Out) : (s.send o).tier = s.tier := rfl
@[simp] theorem State.send_pilot (o : Out) : (s.send o).pilot = s.pilot := rfl
@[simp] theorem State.send_posted (o : Out) : (s.send o).posted = s.posted := rfl
@[simp] theorem State.send_colls (o : Out) : (s.send o).colls = s.colls := rfl
@[simp] theorem State.send_owed (o : Out) : (s.send o).owed = s.owed := rfl
@[simp] theorem State.send_nextId (o : Out) : (s.send o).nextId = s.nextId := rfl
@[simp] theorem State.send_fresh (o : Out) : (s.send o).fresh = s.fresh := rfl
@[simp] theorem State.send_iss (o : Out) : (s.send o).iss = s.iss := rfl
@[simp] theorem State.send_mover (o : Out) : (s.send o).mover = s.mover := rfl
@[simp] theorem State.send_todo (o : Out) : (s.send o).todo = s.todo := rfl
@[simp] theorem State.send_agenda (o : Out) : (s.send o).agenda = s.agenda := rfl
/- at' -/
@[simp] theorem State.at'_g (n : Nat) (i : Instr) : (s.at' n i).g = s.g := rfl
@[simp] theorem State.at'_mem (n : Nat) (i : Instr) : (s.at' n i).mem = s.mem := rfl
@[simp] theorem State.at'_ctxs (n : Nat) (i : Instr) : (s.at' n i).ctxs = s.ctxs := rfl
@[simp] theorem State.at'_cores (n : Nat) (i : Instr) : (s.at' n i).cores = s.cores := rfl
@[simp] theorem State.at'_regs (n : Nat) (i : Instr) : (s.at' n i).regs = s.regs := rfl
@[simp] theorem State.at'_die (n : Nat) (i : Instr) : (s.at' n i).die = s.die := rfl
@[simp] theorem State.at'_retiring (n : Nat) (i : Instr) : (s.at' n i).retiring = s.retiring := rfl
@[simp] theorem State.at'_fenced (n : Nat) (i : Instr) : (s.at' n i).fenced = s.fenced := rfl
@[simp] theorem State.at'_remap (n : Nat) (i : Instr) : (s.at' n i).remap = s.remap := rfl
@[simp] theorem State.at'_repairs (n : Nat) (i : Instr) : (s.at' n i).repairs = s.repairs := rfl
@[simp] theorem State.at'_tripped (n : Nat) (i : Instr) : (s.at' n i).tripped = s.tripped := rfl
@[simp] theorem State.at'_portDown (n : Nat) (i : Instr) : (s.at' n i).portDown = s.portDown := rfl
@[simp] theorem State.at'_laneUsed (n : Nat) (i : Instr) : (s.at' n i).laneUsed = s.laneUsed := rfl
@[simp] theorem State.at'_retrain (n : Nat) (i : Instr) : (s.at' n i).retrain = s.retrain := rfl
@[simp] theorem State.at'_vfOn (n : Nat) (i : Instr) : (s.at' n i).vfOn = s.vfOn := rfl
@[simp] theorem State.at'_pri (n : Nat) (i : Instr) : (s.at' n i).pri = s.pri := rfl
@[simp] theorem State.at'_priUsed (n : Nat) (i : Instr) : (s.at' n i).priUsed = s.priUsed := rfl
@[simp] theorem State.at'_atc (n : Nat) (i : Instr) : (s.at' n i).atc = s.atc := rfl
@[simp] theorem State.at'_ats (n : Nat) (i : Instr) : (s.at' n i).ats = s.ats := rfl
@[simp] theorem State.at'_inval (n : Nat) (i : Instr) : (s.at' n i).inval = s.inval := rfl
@[simp] theorem State.at'_waits (n : Nat) (i : Instr) : (s.at' n i).waits = s.waits := rfl
@[simp] theorem State.at'_answers (n : Nat) (i : Instr) : (s.at' n i).answers = s.answers := rfl
@[simp] theorem State.at'_wants (n : Nat) (i : Instr) : (s.at' n i).wants = s.wants := rfl
@[simp] theorem State.at'_outbox (n : Nat) (i : Instr) : (s.at' n i).outbox = s.outbox := rfl
@[simp] theorem State.at'_fwHeader (n : Nat) (i : Instr) : (s.at' n i).fwHeader = s.fwHeader := rfl
@[simp] theorem State.at'_fwBusy (n : Nat) (i : Instr) : (s.at' n i).fwBusy = s.fwBusy := rfl
@[simp] theorem State.at'_fwRun (n : Nat) (i : Instr) : (s.at' n i).fwRun = s.fwRun := rfl
@[simp] theorem State.at'_svnMin (n : Nat) (i : Instr) : (s.at' n i).svnMin = s.svnMin := rfl
@[simp] theorem State.at'_spdm (n : Nat) (i : Instr) : (s.at' n i).spdm = s.spdm := rfl
@[simp] theorem State.at'_ide (n : Nat) (i : Instr) : (s.at' n i).ide = s.ide := rfl
@[simp] theorem State.at'_tdisp (n : Nat) (i : Instr) : (s.at' n i).tdisp = s.tdisp := rfl
@[simp] theorem State.at'_bin (n : Nat) (i : Instr) : (s.at' n i).bin = s.bin := rfl
@[simp] theorem State.at'_tier (n : Nat) (i : Instr) : (s.at' n i).tier = s.tier := rfl
@[simp] theorem State.at'_pilot (n : Nat) (i : Instr) : (s.at' n i).pilot = s.pilot := rfl
@[simp] theorem State.at'_posted (n : Nat) (i : Instr) : (s.at' n i).posted = s.posted := rfl
@[simp] theorem State.at'_colls (n : Nat) (i : Instr) : (s.at' n i).colls = s.colls := rfl
@[simp] theorem State.at'_owed (n : Nat) (i : Instr) : (s.at' n i).owed = s.owed := rfl
@[simp] theorem State.at'_nextId (n : Nat) (i : Instr) : (s.at' n i).nextId = s.nextId := rfl
@[simp] theorem State.at'_fresh (n : Nat) (i : Instr) : (s.at' n i).fresh = s.fresh := rfl
@[simp] theorem State.at'_iss (n : Nat) (i : Instr) : (s.at' n i).iss = s.iss := rfl
@[simp] theorem State.at'_mover (n : Nat) (i : Instr) : (s.at' n i).mover = s.mover := rfl
@[simp] theorem State.at'_todo (n : Nat) (i : Instr) : (s.at' n i).todo = s.todo := rfl
/- laterBy -/
@[simp] theorem State.laterBy_g (n : Nat) (i : Instr) : (s.laterBy n i).g = s.g := rfl
@[simp] theorem State.laterBy_mem (n : Nat) (i : Instr) : (s.laterBy n i).mem = s.mem := rfl
@[simp] theorem State.laterBy_ctxs (n : Nat) (i : Instr) : (s.laterBy n i).ctxs = s.ctxs := rfl
@[simp] theorem State.laterBy_cores (n : Nat) (i : Instr) : (s.laterBy n i).cores = s.cores := rfl
@[simp] theorem State.laterBy_regs (n : Nat) (i : Instr) : (s.laterBy n i).regs = s.regs := rfl
@[simp] theorem State.laterBy_die (n : Nat) (i : Instr) : (s.laterBy n i).die = s.die := rfl
@[simp] theorem State.laterBy_retiring (n : Nat) (i : Instr) : (s.laterBy n i).retiring = s.retiring := rfl
@[simp] theorem State.laterBy_fenced (n : Nat) (i : Instr) : (s.laterBy n i).fenced = s.fenced := rfl
@[simp] theorem State.laterBy_remap (n : Nat) (i : Instr) : (s.laterBy n i).remap = s.remap := rfl
@[simp] theorem State.laterBy_repairs (n : Nat) (i : Instr) : (s.laterBy n i).repairs = s.repairs := rfl
@[simp] theorem State.laterBy_tripped (n : Nat) (i : Instr) : (s.laterBy n i).tripped = s.tripped := rfl
@[simp] theorem State.laterBy_portDown (n : Nat) (i : Instr) : (s.laterBy n i).portDown = s.portDown := rfl
@[simp] theorem State.laterBy_laneUsed (n : Nat) (i : Instr) : (s.laterBy n i).laneUsed = s.laneUsed := rfl
@[simp] theorem State.laterBy_retrain (n : Nat) (i : Instr) : (s.laterBy n i).retrain = s.retrain := rfl
@[simp] theorem State.laterBy_vfOn (n : Nat) (i : Instr) : (s.laterBy n i).vfOn = s.vfOn := rfl
@[simp] theorem State.laterBy_pri (n : Nat) (i : Instr) : (s.laterBy n i).pri = s.pri := rfl
@[simp] theorem State.laterBy_priUsed (n : Nat) (i : Instr) : (s.laterBy n i).priUsed = s.priUsed := rfl
@[simp] theorem State.laterBy_atc (n : Nat) (i : Instr) : (s.laterBy n i).atc = s.atc := rfl
@[simp] theorem State.laterBy_ats (n : Nat) (i : Instr) : (s.laterBy n i).ats = s.ats := rfl
@[simp] theorem State.laterBy_inval (n : Nat) (i : Instr) : (s.laterBy n i).inval = s.inval := rfl
@[simp] theorem State.laterBy_waits (n : Nat) (i : Instr) : (s.laterBy n i).waits = s.waits := rfl
@[simp] theorem State.laterBy_answers (n : Nat) (i : Instr) : (s.laterBy n i).answers = s.answers := rfl
@[simp] theorem State.laterBy_wants (n : Nat) (i : Instr) : (s.laterBy n i).wants = s.wants := rfl
@[simp] theorem State.laterBy_outbox (n : Nat) (i : Instr) : (s.laterBy n i).outbox = s.outbox := rfl
@[simp] theorem State.laterBy_fwHeader (n : Nat) (i : Instr) : (s.laterBy n i).fwHeader = s.fwHeader := rfl
@[simp] theorem State.laterBy_fwBusy (n : Nat) (i : Instr) : (s.laterBy n i).fwBusy = s.fwBusy := rfl
@[simp] theorem State.laterBy_fwRun (n : Nat) (i : Instr) : (s.laterBy n i).fwRun = s.fwRun := rfl
@[simp] theorem State.laterBy_svnMin (n : Nat) (i : Instr) : (s.laterBy n i).svnMin = s.svnMin := rfl
@[simp] theorem State.laterBy_spdm (n : Nat) (i : Instr) : (s.laterBy n i).spdm = s.spdm := rfl
@[simp] theorem State.laterBy_ide (n : Nat) (i : Instr) : (s.laterBy n i).ide = s.ide := rfl
@[simp] theorem State.laterBy_tdisp (n : Nat) (i : Instr) : (s.laterBy n i).tdisp = s.tdisp := rfl
@[simp] theorem State.laterBy_bin (n : Nat) (i : Instr) : (s.laterBy n i).bin = s.bin := rfl
@[simp] theorem State.laterBy_tier (n : Nat) (i : Instr) : (s.laterBy n i).tier = s.tier := rfl
@[simp] theorem State.laterBy_pilot (n : Nat) (i : Instr) : (s.laterBy n i).pilot = s.pilot := rfl
@[simp] theorem State.laterBy_posted (n : Nat) (i : Instr) : (s.laterBy n i).posted = s.posted := rfl
@[simp] theorem State.laterBy_colls (n : Nat) (i : Instr) : (s.laterBy n i).colls = s.colls := rfl
@[simp] theorem State.laterBy_owed (n : Nat) (i : Instr) : (s.laterBy n i).owed = s.owed := rfl
@[simp] theorem State.laterBy_nextId (n : Nat) (i : Instr) : (s.laterBy n i).nextId = s.nextId := rfl
@[simp] theorem State.laterBy_iss (n : Nat) (i : Instr) : (s.laterBy n i).iss = s.iss := rfl
@[simp] theorem State.laterBy_mover (n : Nat) (i : Instr) : (s.laterBy n i).mover = s.mover := rfl
@[simp] theorem State.laterBy_todo (n : Nat) (i : Instr) : (s.laterBy n i).todo = s.todo := rfl
/- later -/
@[simp] theorem State.later_g (i : Instr) : (s.later i).g = s.g := rfl
@[simp] theorem State.later_mem (i : Instr) : (s.later i).mem = s.mem := rfl
@[simp] theorem State.later_ctxs (i : Instr) : (s.later i).ctxs = s.ctxs := rfl
@[simp] theorem State.later_cores (i : Instr) : (s.later i).cores = s.cores := rfl
@[simp] theorem State.later_regs (i : Instr) : (s.later i).regs = s.regs := rfl
@[simp] theorem State.later_die (i : Instr) : (s.later i).die = s.die := rfl
@[simp] theorem State.later_retiring (i : Instr) : (s.later i).retiring = s.retiring := rfl
@[simp] theorem State.later_fenced (i : Instr) : (s.later i).fenced = s.fenced := rfl
@[simp] theorem State.later_remap (i : Instr) : (s.later i).remap = s.remap := rfl
@[simp] theorem State.later_repairs (i : Instr) : (s.later i).repairs = s.repairs := rfl
@[simp] theorem State.later_tripped (i : Instr) : (s.later i).tripped = s.tripped := rfl
@[simp] theorem State.later_portDown (i : Instr) : (s.later i).portDown = s.portDown := rfl
@[simp] theorem State.later_laneUsed (i : Instr) : (s.later i).laneUsed = s.laneUsed := rfl
@[simp] theorem State.later_retrain (i : Instr) : (s.later i).retrain = s.retrain := rfl
@[simp] theorem State.later_vfOn (i : Instr) : (s.later i).vfOn = s.vfOn := rfl
@[simp] theorem State.later_pri (i : Instr) : (s.later i).pri = s.pri := rfl
@[simp] theorem State.later_priUsed (i : Instr) : (s.later i).priUsed = s.priUsed := rfl
@[simp] theorem State.later_atc (i : Instr) : (s.later i).atc = s.atc := rfl
@[simp] theorem State.later_ats (i : Instr) : (s.later i).ats = s.ats := rfl
@[simp] theorem State.later_inval (i : Instr) : (s.later i).inval = s.inval := rfl
@[simp] theorem State.later_waits (i : Instr) : (s.later i).waits = s.waits := rfl
@[simp] theorem State.later_answers (i : Instr) : (s.later i).answers = s.answers := rfl
@[simp] theorem State.later_wants (i : Instr) : (s.later i).wants = s.wants := rfl
@[simp] theorem State.later_outbox (i : Instr) : (s.later i).outbox = s.outbox := rfl
@[simp] theorem State.later_fwHeader (i : Instr) : (s.later i).fwHeader = s.fwHeader := rfl
@[simp] theorem State.later_fwBusy (i : Instr) : (s.later i).fwBusy = s.fwBusy := rfl
@[simp] theorem State.later_fwRun (i : Instr) : (s.later i).fwRun = s.fwRun := rfl
@[simp] theorem State.later_svnMin (i : Instr) : (s.later i).svnMin = s.svnMin := rfl
@[simp] theorem State.later_spdm (i : Instr) : (s.later i).spdm = s.spdm := rfl
@[simp] theorem State.later_ide (i : Instr) : (s.later i).ide = s.ide := rfl
@[simp] theorem State.later_tdisp (i : Instr) : (s.later i).tdisp = s.tdisp := rfl
@[simp] theorem State.later_bin (i : Instr) : (s.later i).bin = s.bin := rfl
@[simp] theorem State.later_tier (i : Instr) : (s.later i).tier = s.tier := rfl
@[simp] theorem State.later_pilot (i : Instr) : (s.later i).pilot = s.pilot := rfl
@[simp] theorem State.later_posted (i : Instr) : (s.later i).posted = s.posted := rfl
@[simp] theorem State.later_colls (i : Instr) : (s.later i).colls = s.colls := rfl
@[simp] theorem State.later_owed (i : Instr) : (s.later i).owed = s.owed := rfl
@[simp] theorem State.later_nextId (i : Instr) : (s.later i).nextId = s.nextId := rfl
@[simp] theorem State.later_iss (i : Instr) : (s.later i).iss = s.iss := rfl
@[simp] theorem State.later_mover (i : Instr) : (s.later i).mover = s.mover := rfl
@[simp] theorem State.later_todo (i : Instr) : (s.later i).todo = s.todo := rfl
/- soon -/
@[simp] theorem State.soon_g (i : Instr) : (s.soon i).g = s.g := rfl
@[simp] theorem State.soon_mem (i : Instr) : (s.soon i).mem = s.mem := rfl
@[simp] theorem State.soon_ctxs (i : Instr) : (s.soon i).ctxs = s.ctxs := rfl
@[simp] theorem State.soon_cores (i : Instr) : (s.soon i).cores = s.cores := rfl
@[simp] theorem State.soon_regs (i : Instr) : (s.soon i).regs = s.regs := rfl
@[simp] theorem State.soon_die (i : Instr) : (s.soon i).die = s.die := rfl
@[simp] theorem State.soon_retiring (i : Instr) : (s.soon i).retiring = s.retiring := rfl
@[simp] theorem State.soon_fenced (i : Instr) : (s.soon i).fenced = s.fenced := rfl
@[simp] theorem State.soon_remap (i : Instr) : (s.soon i).remap = s.remap := rfl
@[simp] theorem State.soon_repairs (i : Instr) : (s.soon i).repairs = s.repairs := rfl
@[simp] theorem State.soon_tripped (i : Instr) : (s.soon i).tripped = s.tripped := rfl
@[simp] theorem State.soon_portDown (i : Instr) : (s.soon i).portDown = s.portDown := rfl
@[simp] theorem State.soon_laneUsed (i : Instr) : (s.soon i).laneUsed = s.laneUsed := rfl
@[simp] theorem State.soon_retrain (i : Instr) : (s.soon i).retrain = s.retrain := rfl
@[simp] theorem State.soon_vfOn (i : Instr) : (s.soon i).vfOn = s.vfOn := rfl
@[simp] theorem State.soon_pri (i : Instr) : (s.soon i).pri = s.pri := rfl
@[simp] theorem State.soon_priUsed (i : Instr) : (s.soon i).priUsed = s.priUsed := rfl
@[simp] theorem State.soon_atc (i : Instr) : (s.soon i).atc = s.atc := rfl
@[simp] theorem State.soon_ats (i : Instr) : (s.soon i).ats = s.ats := rfl
@[simp] theorem State.soon_inval (i : Instr) : (s.soon i).inval = s.inval := rfl
@[simp] theorem State.soon_waits (i : Instr) : (s.soon i).waits = s.waits := rfl
@[simp] theorem State.soon_answers (i : Instr) : (s.soon i).answers = s.answers := rfl
@[simp] theorem State.soon_wants (i : Instr) : (s.soon i).wants = s.wants := rfl
@[simp] theorem State.soon_outbox (i : Instr) : (s.soon i).outbox = s.outbox := rfl
@[simp] theorem State.soon_fwHeader (i : Instr) : (s.soon i).fwHeader = s.fwHeader := rfl
@[simp] theorem State.soon_fwBusy (i : Instr) : (s.soon i).fwBusy = s.fwBusy := rfl
@[simp] theorem State.soon_fwRun (i : Instr) : (s.soon i).fwRun = s.fwRun := rfl
@[simp] theorem State.soon_svnMin (i : Instr) : (s.soon i).svnMin = s.svnMin := rfl
@[simp] theorem State.soon_spdm (i : Instr) : (s.soon i).spdm = s.spdm := rfl
@[simp] theorem State.soon_ide (i : Instr) : (s.soon i).ide = s.ide := rfl
@[simp] theorem State.soon_tdisp (i : Instr) : (s.soon i).tdisp = s.tdisp := rfl
@[simp] theorem State.soon_bin (i : Instr) : (s.soon i).bin = s.bin := rfl
@[simp] theorem State.soon_tier (i : Instr) : (s.soon i).tier = s.tier := rfl
@[simp] theorem State.soon_pilot (i : Instr) : (s.soon i).pilot = s.pilot := rfl
@[simp] theorem State.soon_posted (i : Instr) : (s.soon i).posted = s.posted := rfl
@[simp] theorem State.soon_colls (i : Instr) : (s.soon i).colls = s.colls := rfl
@[simp] theorem State.soon_owed (i : Instr) : (s.soon i).owed = s.owed := rfl
@[simp] theorem State.soon_nextId (i : Instr) : (s.soon i).nextId = s.nextId := rfl
@[simp] theorem State.soon_fresh (i : Instr) : (s.soon i).fresh = s.fresh := rfl
@[simp] theorem State.soon_iss (i : Instr) : (s.soon i).iss = s.iss := rfl
@[simp] theorem State.soon_mover (i : Instr) : (s.soon i).mover = s.mover := rfl
@[simp] theorem State.soon_todo (i : Instr) : (s.soon i).todo = s.todo := rfl

/- The accessors -/
@[simp] theorem State.ctx_setCtx (cx x : Nat) (c : Ctx) : (s.setCtx cx c).ctx x = if x = cx then c else s.ctx x :=
  Map.get_put _ _ _ _ _
@[simp] theorem State.core_setCore (n m : Nat) (k : Core) : (s.setCore n k).core m = if m = n then k else s.core m :=
  Map.get_put _ _ _ _ _
@[simp] theorem State.reg_setReg (k j : Nat) (v : Word) : (s.setReg k v).reg j = if j = k then v else s.reg j := by
  simp only [State.reg, State.setReg]
  by_cases h : j = k
  · subst h; simp [Map.get_set]
  · rw [Map.get_set_other _ _ _ _ _ _ h, if_neg h]
@[simp] theorem State.ctx_setCore (n x : Nat) (k : Core) : (s.setCore n k).ctx x = s.ctx x := rfl
@[simp] theorem State.core_setCtx (n x : Nat) (c : Ctx) : (s.setCtx x c).core n = s.core n := rfl
@[simp] theorem State.frame_setFrame (f x : Nat) (e : Frame) : (s.setFrame f e).frame x = if x = f then e else s.frame x :=
  Map.get_set _ _ _ _ _
@[simp] theorem State.byte_setCtx (cx a : Nat) (c : Ctx) : (s.setCtx cx c).byte a = s.byte a := rfl

end Sys2Proof.Machine
end

