-- ==== Sys2Proof/Laws/Ops.lean ====
section
/-! SUPPORT. What each shared operation of an op can do, once: guards, pending writes, stops, occupancies, port claims, the
engine queue, law words, the handler's entry, and how a step goes on. -/

namespace Sys2Proof.Machine

variable (s : State)

/- The context that issues, and cores -/
@[simp] theorem State.modCtx_ctx (cx x : Nat) (f : Ctx → Ctx) :
    (s.modCtx cx f).ctx x = if x = cx then f (s.ctx cx) else s.ctx x := State.ctx_setCtx _ _ _ _
@[simp] theorem State.modCore_core (n m : Nat) (f : Core → Core) :
    (s.modCore n f).core m = if m = n then f (s.core n) else s.core m := State.core_setCore _ _ _ _
@[simp] theorem State.modCtx_byte (cx a : Nat) (f : Ctx → Ctx) : (s.modCtx cx f).byte a = s.byte a := rfl
@[simp] theorem State.modCore_byte (n a : Nat) (f : Core → Core) : (s.modCore n f).byte a = s.byte a := rfl
@[simp] theorem State.modCur_iss (f : Ctx → Ctx) : (s.modCur f).iss = s.iss := rfl
@[simp] theorem State.modCur_byte (a : Nat) (f : Ctx → Ctx) : (s.modCur f).byte a = s.byte a := rfl
@[simp] theorem State.cur_modCur (f : Ctx → Ctx) : (s.modCur f).cur = f s.cur := by
  show (s.modCtx s.iss.cx f).ctx s.iss.cx = f (s.ctx s.iss.cx)
  simp
/-- A change of the issuing context changes nothing else. -/
theorem State.modCur_frame {same : Ctx → Ctx → Prop} (f : Ctx → Ctx) (h : same s.cur (f s.cur)) : CurOnly s (s.modCur f) same :=
  ⟨rfl, fun x hx => by simp [State.modCur, hx], by simpa using h⟩
/-- Frames of two changes compose. -/
theorem CurOnly.trans {s t u : State} {p q r : Ctx → Ctx → Prop} (hpq : ∀ c d e, p c d → q d e → r c e)
    (h : CurOnly s t p) (h' : CurOnly t u q) : CurOnly s u r := by
  obtain ⟨h1, h2, h3⟩ := h
  obtain ⟨k1, k2, k3⟩ := h'
  have hc : t.iss.cx = s.iss.cx := by rw [h1]
  refine ⟨by rw [k1, h1], fun x hx => ?_, hpq _ _ _ h3 k3⟩
  rw [k2 x (by rw [hc]; exact hx), h2 x hx]
/-- A frame of the issuing context keeps every byte of memory. -/
theorem CurOnly.byte {s t : State} {p : Ctx → Ctx → Prop} (h : CurOnly s t p) (a : Nat) : t.byte a = s.byte a := by
  rw [h.1]; rfl
theorem CurOnly.iss {s t : State} {p : Ctx → Ctx → Prop} (h : CurOnly s t p) : t.iss = s.iss := by rw [h.1]
/-- No change at all is a frame. -/
theorem CurOnly.refl {p : Ctx → Ctx → Prop} (h : p s.cur s.cur) : CurOnly s s p := ⟨rfl, fun _ _ => rfl, h⟩
theorem PendsOnly.refl (c : Ctx) : PendsOnly c c := rfl
theorem PendsOnly.trans {c d e : Ctx} (h : PendsOnly c d) (h' : PendsOnly d e) : PendsOnly c e := by
  unfold PendsOnly at *; rw [h', h]
theorem UnitsOnly.refl (c : Ctx) : UnitsOnly c c := rfl
theorem UnitsOnly.trans {c d e : Ctx} (h : UnitsOnly c d) (h' : UnitsOnly d e) : UnitsOnly c e := by
  unfold UnitsOnly at *; rw [h', h]
theorem AbOnly.refl (c : Ctx) : AbOnly c c := rfl
theorem AbOnly.trans {c d e : Ctx} (h : AbOnly c d) (h' : AbOnly d e) : AbOnly c e := by
  unfold AbOnly at *; rw [h', h]
theorem PendsOnly.units {c d : Ctx} (h : PendsOnly c d) : UnitsOnly c d := by
  unfold PendsOnly at h; unfold UnitsOnly; rw [h]
theorem PendsOnly.ab {c d : Ctx} (h : PendsOnly c d) : AbOnly c d := by
  unfold PendsOnly at h; unfold AbOnly; rw [h]
theorem NewPends.refl (c : Ctx) (p : Act → Prop) : NewPends c c p := fun _ h => .inl h
theorem NewPends.trans {c d e : Ctx} {p : Act → Prop} (h : NewPends c d p) (h' : NewPends d e p) : NewPends c e p := by
  intro q hq
  rcases h' q hq with hd | hp
  · exact h q hd
  · exact .inr hp
theorem NewPends.mono {c d : Ctx} {p q : Act → Prop} (hpq : ∀ a, p a → q a) (h : NewPends c d p) : NewPends c d q :=
  fun x hx => (h x hx).imp id (hpq _)

/- Guards -/
/-- An op under a guard acts, or does nothing (R268). -/
theorem State.guarded_next {g : Guard} {f : State → State} {t : State} (h : s.guarded g f = .next t) :
    (s.guard g = true ∧ t = f s) ∨ (s.guard g = false ∧ t = s) := by
  unfold State.guarded at h
  cases hg : s.guard g <;> simp [hg] at h <;> simp [h]

/- Pending writes -/
theorem mem_insertPend (p q : Pend) (l : List Pend) : q ∈ insertPend p l ↔ q = p ∨ q ∈ l := by
  induction l with
  | nil => simp [insertPend]
  | cons x l ih =>
    simp only [insertPend]
    split <;> simp [ih] <;> grind
/-- A pending action is added to the issuing context, and nothing else changes (R194). -/
theorem State.pendAt_frame (land : Nat) (fu : Fu) (a : Act) :
    CurOnly s (s.pendAt land fu a) PendsOnly ∧ NewPends s.cur (s.pendAt land fu a).cur (· = a) ∧
      ⟨land, s.seq, fu, a⟩ ∈ (s.pendAt land fu a).cur.pend := by
  refine ⟨State.modCur_frame s _ rfl, ?_, ?_⟩
  · intro q hq
    simp only [State.pendAt, State.cur_modCur, mem_insertPend] at hq
    rcases hq with rfl | hq
    · exact .inr rfl
    · exact .inl hq
  · simp [State.pendAt, mem_insertPend]
theorem State.after_frame (lat : Nat) (a : Act) :
    CurOnly s (s.after lat a) PendsOnly ∧ NewPends s.cur (s.after lat a).cur (· = a) ∧
      ⟨s.cur.tick + lat, s.seq, .none, a⟩ ∈ (s.after lat a).cur.pend := State.pendAt_frame s _ _ _
/-- A write of a scalar register is pending, but for s0 (R185, R283). -/
theorem State.writeS_frame (lat : Nat) (d : SReg) (v : Word) :
    CurOnly s (s.writeS lat d v) PendsOnly ∧ NewPends s.cur (s.writeS lat d v).cur (WritesS d) := by
  unfold State.writeS
  split
  · exact ⟨CurOnly.refl s (PendsOnly.refl _), NewPends.refl _ _⟩
  · rename_i hd
    obtain ⟨h1, h2, -⟩ := State.after_frame s lat (.sreg d.toNat v)
    exact ⟨h1, h2.mono fun a ha => ⟨hd, v, ha⟩⟩
theorem State.writeP_frame (lat : Nat) (p : BitVec 4) (b : Bool) :
    CurOnly s (s.writeP lat p b) PendsOnly ∧ NewPends s.cur (s.writeP lat p b).cur (WritesP p) := by
  unfold State.writeP
  split
  · exact ⟨CurOnly.refl s (PendsOnly.refl _), NewPends.refl _ _⟩
  · rename_i hp
    obtain ⟨h1, h2, -⟩ := State.after_frame s lat (.pred p.toNat b)
    exact ⟨h1, h2.mono fun a ha => ⟨hp, b, ha⟩⟩
theorem State.writeFlags_frame (lat : Nat) (fl : Flags) :
    CurOnly s (s.writeFlags lat fl) PendsOnly ∧ NewPends s.cur (s.writeFlags lat fl).cur WritesFlags := by
  unfold State.writeFlags
  split
  · exact ⟨CurOnly.refl s (PendsOnly.refl _), NewPends.refl _ _⟩
  · obtain ⟨h1, h2, -⟩ := State.after_frame s lat (.flags fl)
    exact ⟨h1, h2.mono fun a ha => ⟨fl, ha⟩⟩

/- Units and ports -/
theorem State.occupy_frame (fu : Fu) (n : Nat) :
    CurOnly s (s.occupy fu n) UnitsOnly ∧ (s.occupy fu n).cur.pend = s.cur.pend ∧
      (s.occupy fu n).cur.busy = Map.put s.cur.busy (fuNum fu) (s.cur.tick + n) :=
  ⟨State.modCur_frame s _ rfl, by simp [State.occupy], by simp [State.occupy]⟩
theorem State.claimAb_frame (ts : List (Nat × Nat)) :
    CurOnly s (s.claimAb ts) AbOnly ∧ (s.claimAb ts).cur.pend = s.cur.pend :=
  ⟨State.modCur_frame s _ rfl, by simp [State.claimAb]⟩

/- Stops -/
@[simp] theorem State.halt_stopped (st : Stop) : (s.halt st).iss.stopped = some st := rfl
@[simp] theorem State.unless_none (f : State → State) : s.unless none f = f s := rfl
@[simp] theorem State.unless_some (st : Stop) (f : State → State) : s.unless (some st) f = s.halt st := rfl
/-- An op with a check that has not stopped met no stop. -/
theorem State.unless_ran {st : Option Stop} {f : State → State} (h : (s.unless st f).iss.stopped = none) :
    st = none ∧ s.unless st f = f s := by
  cases st with
  | none => exact ⟨rfl, rfl⟩
  | some x => simp at h
/-- A list of checks passes when every check does. -/
theorem firstStop_none (l : List (Option Stop)) : firstStop l = none ↔ ∀ x ∈ l, x = none := by
  induction l with
  | nil => simp [firstStop]
  | cons x l ih => cases x <;> simp [firstStop, ih]
/-- What the entry to a handler sets and keeps (R206). -/
theorem State.enterHandler_ctx (cx : Nat) (t : Trap) (slot : Nat) (epc : Word) (next : Nat) (rest : Option Rest) :
    let c := s.ctx cx
    let d := (s.enterHandler cx t slot epc next rest).ctx cx
    d.pc = c.trapvec ∧ d.epc = epc ∧ d.faddr = t.faddr ∧ d.cause = causeWord slot t.sub t.kind ∧ d.inh = true ∧ d.idle = 3 ∧
    d.snap = some ⟨next, c.pend⟩ ∧ d.pend = [] ∧ d.sregs = c.sregs ∧ d.preds = c.preds ∧ d.v = c.v ∧ d.flags = c.flags ∧
    d.tick = c.tick := by
  simp [State.enterHandler, Ctx.snapshot]

/- The engine queue -/
/-- A charge touches the accounts and the Pilot's own record of them alone (R120, R121). -/
theorem State.addBalance_frame (t : Nat) (v : Int) : ∃ r p, s.addBalance t v = { s with regs := r, pilot := p } := by
  unfold State.addBalance
  dsimp only
  split <;> exact ⟨_, _, rfl⟩
theorem State.charge_frame (t n : Nat) : ∃ r p, s.charge t n = { s with regs := r, pilot := p } := by
  unfold State.charge
  split
  · exact ⟨_, _, rfl⟩
  · obtain ⟨r, p, h⟩ := State.addBalance_frame s t (-(n : Int))
    dsimp only
    rw [h]
    split <;> exact ⟨_, _, rfl⟩
theorem State.chargeRest_frame (t tier n paid : Nat) (rates : List Nat) :
    ∃ r p, s.chargeRest t tier n paid rates = { s with regs := r, pilot := p } := by
  unfold State.chargeRest
  dsimp only
  exact State.charge_frame _ _ _
theorem State.chargeBytes_frame (t tier n : Nat) : ∃ r p, s.chargeBytes t tier n = { s with regs := r, pilot := p } :=
  State.chargeRest_frame s t tier n 0 _
/-- The charge of a command, made or still owing, touches nothing else; a command without a charge touches nothing. -/
theorem State.settle_frame (e : Entry) (ends : Bool) :
    (∃ r p, (s.settle e ends).1 = { s with regs := r, pilot := p }) ∧ (e.owing = none → s.settle e ends = (s, e)) := by
  unfold State.settle
  cases e.owing with
  | none => exact ⟨⟨_, _, rfl⟩, fun _ => rfl⟩
  | some m =>
    refine ⟨?_, fun h => nomatch h⟩
    dsimp only
    split
    · split
      · exact ⟨_, _, rfl⟩
      · exact State.chargeRest_frame ..
    · split
      · exact ⟨_, _, rfl⟩
      · exact State.charge_frame ..
/-- Whether a charge is made does not depend on the ids given out. -/
theorem State.settle_entry (n : Nat) (e : Entry) (ends : Bool) :
    ({ s with nextId := n }.settle e ends).2 = (s.settle e ends).2 := by
  have h : { s with nextId := n }.tierOf = s.tierOf := rfl
  have hp : { s with nextId := n }.payer e = s.payer e := rfl
  unfold State.settle
  cases e.owing with
  | none => rfl
  | some m =>
    dsimp only
    rw [h, hp]
    split <;> rfl
/-- A command stands last in the queue of the issuing core; other cores, every context, memory, posted stores and tiers stay
(R367). -/
theorem State.enqueue_frame (cmd : Cmd) (extra : List (Nat × Nat)) :
    (s.enqueue cmd extra).core (coreOf s.iss.cx) = { s.core (coreOf s.iss.cx) with
      queue := (s.core (coreOf s.iss.cx)).queue ++ [s.newEntry cmd extra] } ∧
    (∀ c, c ≠ coreOf s.iss.cx → (s.enqueue cmd extra).core c = s.core c) ∧ (s.enqueue cmd extra).ctxs = s.ctxs ∧
    (s.enqueue cmd extra).mem = s.mem ∧ (s.enqueue cmd extra).posted = s.posted ∧ (s.enqueue cmd extra).tier = s.tier ∧
    (s.enqueue cmd extra).iss = s.iss := by
  have key (t : State) (n : Nat) (i : Instr) (c : Nat) : (t.laterBy n i).core c = t.core c := rfl
  obtain ⟨⟨r, p, h⟩, -⟩ := State.settle_frame { s with nextId := s.nextId + 1 } ⟨s.nextId, s.iss.cx, s.cur.crew.getD 0, cmd, 0,
    s.open' (s.cur.loadHold ++ s.cur.storeHold ++ extra), false, false, s.cur.tick, s.g, [], none,
    if cmd.places.isEmpty then none else some ⟨0, 0, ({ s with nextId := s.nextId + 1 } : State).acctRates⟩, 0, none⟩ false
  have queue (n : Nat) (f : Core → Core) (c : Nat) : ({ s with nextId := s.nextId + 1, regs := r, pilot := p }.modCore n f).core c =
      if c = n then f (s.core n) else s.core c := State.modCore_core _ _ _ _
  cases cmd
  all_goals
    simp only [State.enqueue, State.newId, State.later] at h ⊢
    simp only [h]
    refine ⟨?_, fun c hc => ?_, rfl, rfl, rfl, rfl, rfl⟩
    · rw [State.settle_entry]
      exact (key _ _ _ _).trans ((queue _ _ _).trans (if_pos rfl))
    · exact (key _ _ _ _).trans ((queue _ _ _).trans (if_neg hc))

/- Acts of the collective die -/
/-- An act that lacks something leaves the state as it was, but for its place among what waits and the requests it makes (R52). -/
theorem State.whole_lacks {α : Type} (k : Task) (f : State → State × α) (h : (s.whole k f).2 = none) :
    ∃ (ws : List Wait) (l : List Want), (s.whole k f).1 = l.foldl State.askFor { s with waits := ws } := by
  unfold State.whole at h ⊢
  dsimp only at h ⊢
  split
  · rename_i hc; simp [hc] at h
  · exact ⟨_, _, rfl⟩
/-- An act that lacks nothing is done as its own operation does it, with what came for it at hand. -/
theorem State.whole_done {α : Type} (k : Task) (f : State → State × α) (a : α) (h : (s.whole k f).2 = some a) :
    ∃ got ws, (s.whole k f).1 = { (f { s with wants := [], answers := got }).1 with
      wants := s.wants, answers := s.answers, waits := ws } ∧ (f { s with wants := [], answers := got }).2 = a ∧
      (f { s with wants := [], answers := got }).1.wants = [] := by
  unfold State.whole at h ⊢
  dsimp only at h ⊢
  split
  · rename_i hc; exact ⟨_, _, rfl, by simpa [hc] using h, by simpa using hc⟩
  · rename_i hc; simp [hc] at h

/- The host -/
/-- A write to a register acts while the register answers, and is ignored otherwise (R26). -/
theorem State.served_open (off : Nat) (f : State → State) (h : s.pfOpen off = true) : s.served off f = f s := by
  simp [State.served, h]
theorem State.served_ignored (off : Nat) (f : State → State) (h : s.pfOpen off = false) : s.served off f = s := by
  simp [State.served, h]
/-- A request to a window of PF0 is served in service (R25, R46). -/
theorem State.reach_pf (bar : Nat) (bound : Bool) (f : State → State) (h : s.inService = true) : s.reach 0 bar bound f = f s := by
  simp [State.reach, h]
/-- A request to a window of a virtual function is served in service, when its partition is configured and, in RUN, on its
bound stream (R44, R68). -/
theorem State.reach_vf (fn bar : Nat) (bound : Bool) (f : State → State) (h : s.inService = true) (hf : s.vfConfigured fn = true)
    (hb : s.tdispState fn % 4 = 2 → bound = true) : s.reach fn bar bound f = f s := by
  have h0 : fn ≠ 0 := by rintro rfl; simp [State.vfConfigured] at hf
  by_cases h2 : s.tdispState fn % 4 = 2
  · simp [State.reach, h, h0, hf, hb h2]
  · simp [State.reach, h, h0, hf, h2]

/- Laws -/
/-- A word of a law acts on the bank of the running law, and on nothing without one (R78). -/
theorem State.lawOp_none (f : Nat → Law → State → State × Law) (h : s.running = none) : s.lawOp f = .next s := by
  unfold State.lawOp; rw [h]

/- Steps -/
@[simp] theorem Res.bind_next (t : State) (f : State → Res) : Res.bind (.next t) f = f t := rfl
/-- A step of an event is that instruction and the choice of the next mover. -/
theorem step_event {i : Instr} {t : State} (h : s.mover = .event i) (he : exec i s = .next t) : step s = .next t.resched := by
  unfold step; rw [h]; simp [he]
theorem step_wait (h : s.mover = .wait) : step s = .next s.nextCycle.resched := by
  unfold step; rw [h]

end Sys2Proof.Machine
end

