-- ==== Sys2Proof/Tests/Slice0.lean ====
section
/-! SUPPORT. Tests: what well-formedness refuses, words written out in the spec, and for each statement of
Certificates/Slice0/Obligations.lean states and operands that meet its hypotheses, clause by clause. -/

namespace Sys2Proof.Tests
open Sys2Proof.Machine

/- Well-formedness: an ill-formed term for each check -/
/-- R287: levels 0 to 5, a length and stages that are not zero. -/
theorem test_wf_loops : (Instr.loop 0 6 0 1).wf = false ∧ (Instr.loop 0 5 0 0).wf = false ∧ (Instr.loop 0 5 0 1).wf = true ∧
    (Instr.loopp 0 6 0 1 1).wf = false ∧ (Instr.loopp 0 0 0 0 1).wf = false ∧ (Instr.loopp 0 0 0 1 0).wf = false := by decide
/-- R269, R303, R308: an immediate beside an extension, a kind above 4, a relation above 11. -/
theorem test_wf_scalar : (Instr.inject 0 1 5).wf = false ∧ (Instr.addi .a 0 1 2 3 (some 4)).wf = false ∧
    (Instr.addi .a 0 1 2 0 (some 4)).wf = true ∧ (Instr.movi .b 0 1 3 (some 4)).wf = false ∧ (Instr.cmp .a 0 1 2 3 12).wf = false ∧
    (Instr.cmpi .a 0 1 2 3 0 (some 4)).wf = false ∧ (Instr.fcvt .a 0 1 2 8).wf = false ∧ (Instr.fcmp .a 0 1 2 3 8).wf = false := by decide
/-- R270, R313, R316: scope 7, a release on a load, a sign on 8 bytes, an acquire on a store, narrow atomics, code 10. -/
theorem test_wf_accesses : (Instr.ld 0 1 2 2 0 1 0 7 none).wf = false ∧ (Instr.ld 0 1 2 2 0 1 2 0 none).wf = false ∧
    (Instr.ld 0 1 2 3 1 1 0 0 none).wf = false ∧ (Instr.st 0 1 2 2 1 1 0 none).wf = false ∧ (Instr.amo 0 1 2 3 0 1 1 0 0).wf = false ∧
    (Instr.amo 0 1 2 3 10 2 1 0 0).wf = false ∧ (Instr.amo 0 1 2 3 9 3 1 0 0).wf = false ∧ (Instr.cas 0 1 2 3 1 1 0 0).wf = false ∧
    (Instr.fence 0 1 7).wf = false ∧ (Instr.drain 0 7).wf = false := by decide
/-- R272 to R275: a whole tile with an index source, mixed shapes, an override of a whole operand, an index without one, aux. -/
theorem test_wf_tiles : (Instr.vadd .v 0 0x11 0x18 0x20 0 none).wf = false ∧ (Instr.vadd .v 0 0x0A 0x18 0x20 0 none).wf = false ∧
    (Instr.vadd .v 0 0x0A 0x12 0x20 0 none).wf = false ∧ (Instr.vadd .v 0 0x10 0x18 0x01 1 none).wf = false ∧
    (Instr.vadd .v 0 0x10 0x18 0x20 0 (some ⟨0, 1, 0, 0, 0⟩)).wf = false ∧
    (Instr.vadd .v 0 0x0A 0x12 0x1A 0 (some ⟨0, 0, 0, 0, 5⟩)).wf = false ∧
    (Instr.vadd .v 0 0x0A 0x12 0x1A 0 (some ⟨1, 0, 0, 0, 0⟩)).wf = false ∧
    (Instr.vabs .v 0 0x0A 0x18 none).wf = false ∧ (Instr.vcmp .v 0 0x10 0x18 0x20 0 ⟨12, 0, 0, 0, 0⟩).wf = false ∧
    (Instr.vcvt .v 0 0x10 0x18 ⟨7, 0, 0, 0, 0⟩).wf = false ∧ (Instr.vbcx .v 0 0x14 0x1C ⟨0, 0, 0, 0, 0⟩).wf = false ∧
    (Instr.vbcx .v 0 0x10 0x18 ⟨64, 0, 0, 0, 0⟩).wf = false ∧ (Instr.vbcy .v 0 0x12 0x1A ⟨0, 0, 0, 0, 0⟩).wf = false ∧
    (Instr.vbcy .v 0 0x10 0x18 ⟨16, 0, 0, 0, 0⟩).wf = false := by decide
theorem test_wf_reductions : (Instr.vsumx .v 0 0x10 0x18 none).wf = false ∧ (Instr.vsumy .v 0 0x10 0x18 none).wf = false ∧
    (Instr.vscanx .v 0 0x14 0x1C none).wf = false ∧ (Instr.vscanx .v 0 0x10 0x18 (some ⟨2, 0, 0, 0, 0⟩)).wf = false ∧
    (Instr.vld .v 0 0x14 1 0 none).wf = false ∧ (Instr.vld .v 0 0x10 1 2 (some 3)).wf = false ∧ (Instr.vldT .v 0 0x16 1 0 0).wf = false ∧
    (Instr.viota .v 0 0x11 none).wf = false ∧ (Instr.vperm 0 0x14 0x1C 0x24 none).wf = false ∧
    (Instr.phFrom 0 0x14 0x1C none).wf = false ∧ (Instr.xblk 0 0x12 0x1A 0).wf = false ∧ (Instr.xblk 0 0x10 0x18 3).wf = false := by decide
/-- R281, R282, R366: a named routine as `mcall`, a column snapshot, no entries, code 6, level 2. -/
theorem test_wf_engines : (Instr.mcall 0 5 0).wf = false ∧ (Instr.msnap 0 0x14 1 0).wf = false ∧ (Instr.mig 0 1 2 0 0).wf = false ∧
    (Instr.coll 0 6 1 2).wf = false ∧ (Instr.pref 0 2 1 2).wf = false := by decide
/-- R87 to R91: ranges of sensors, actuators and selects, and the upper bound of `clp`. -/
theorem test_wf_laws : Wf.sensorId 384 = false ∧ Wf.sensorId 0x10100 = false ∧ Wf.sensorId 0x20010 = false ∧
    Wf.sensorId 0x30018 = false ∧ Wf.sensorId 0x40018 = false ∧ Wf.sensorId 0x50060 = false ∧ Wf.sensorId 0x60060 = false ∧
    Wf.sensorId 0x70002 = false ∧ Wf.hintSel 256 = false ∧ Wf.actuatorId 96 = false ∧ Wf.actuatorId 0x20018 = false ∧
    Wf.actuatorId 0x50000 = false ∧ Wf.signalSel 0x4000 = false ∧ (Instr.clp 1 2 15).wf = false := by decide

/- Words written out in the spec -/
/-- R303's table of control words. -/
theorem test_decode_control : decodeEnc ⟨0, 0x043FFFFB, none⟩ = some (.br 0 (-5)) ∧ decodeEnc ⟨0, 0x20003001, none⟩ = some (.wait 0 12 1) ∧
    decodeEnc ⟨0, 0x24000003, none⟩ = some (.tba 0 3) ∧ decodeEnc ⟨0, 0x1800E004, some 2⟩ = some (.loopp 0 0 7 4 2) ∧
    decodeEnc ⟨0, 0x1408000C, none⟩ = some (.loop 0 1 0 12) := by decide
/-- R283's bundle, R303's table, and R315 and R318. -/
theorem test_decode_scalar : decodeEnc ⟨1, 0x04010830, none⟩ = some (.add .a 0 1 2 3) ∧
    decodeEnc ⟨1, 0x680723FD, none⟩ = some (.addi .a 0 7 8 0x3FD none) ∧ decodeEnc ⟨1, 0x88243108, none⟩ = some (.cmp .a 0 9 3 4 2) ∧
    decodeEnc ⟨1, 0x80080003, none⟩ = some (.movi .a 0 8 3 none) ∧ decodeEnc ⟨1, 0x0C091C80, none⟩ = some (.mul .a 0 9 7 8) ∧
    decodeEnc ⟨2, 0xCC0928B0, some 0x1BC⟩ = some (.cas 0 9 10 11 3 1 3 4) := by decide
/-- The table of tile words after R349. -/
theorem test_decode_tile : decodeEnc ⟨3, 0x04081840, none⟩ = some (.vadd .v 0 0x10 0x18 0x20 0 none) ∧
    decodeEnc ⟨3, 0x0C15B325, none⟩ = some (.vmul .v 0 0x2B 0x33 0x12 1 none) ∧
    decodeEnc ⟨3, 0x04051234, some 0x001C5145⟩ = some (.vadd .v 0 0x0A 0x12 0x1A 0 (some ⟨0, 7, 5, 5, 5⟩)) ∧
    decodeEnc ⟨4, 0x3C2450B0, some 0x00800000⟩ = some (.vcmp .w 0 0x48 0x50 0x58 0 ⟨4, 0, 0, 0, 0⟩) ∧
    decodeEnc ⟨3, 0x50041000, some 0x00E00000⟩ = some (.vbcx .v 0 0x08 0x10 ⟨7, 0, 0, 0, 0⟩) ∧
    decodeEnc ⟨3, 0x70090A00, some 0x00200000⟩ = some (.vscanx .v 0 0x12 0x0A (some ⟨1, 0, 0, 0, 0⟩)) := by decide
theorem test_decode_tile_memory : decodeEnc ⟨3, 0x74111802, none⟩ = some (.vld .v 0 0x22 12 2 none) ∧
    decodeEnc ⟨3, 0x74101880, some 0x35⟩ = some (.vldT .v 0 0x20 12 0 0x35) ∧
    decodeEnc ⟨4, 0xBC102851, none⟩ = some (.phPow 0 0x20 0x28 0x28 1 none) ∧
    decodeEnc ⟨4, 0xC41E1800, none⟩ = some (.phSumx 0 0x3C 0x18 none) ∧
    decodeEnc ⟨5, 0x10081801, none⟩ = some (.xcol 0 0x10 0x18 1) := by decide
/-- R382's table of matrix and engine words. -/
theorem test_decode_engine : decodeEnc ⟨6, 0x0401030F, none⟩ = some (.mma 0 0x30F) ∧ decodeEnc ⟨6, 0x0403000F, none⟩ = some (.drn 0 0xF) ∧
    decodeEnc ⟨6, 0x0800E000, none⟩ = some (.mpset 0 0 7) ∧ decodeEnc ⟨6, 0x08192000, none⟩ = some (.mpset 0 3 9) ∧
    decodeEnc ⟨6, 0x10111800, none⟩ = some (.msnap 0 0x22 12 0) ∧ decodeEnc ⟨7, 0x04145400, none⟩ = some (.bld 0 20 21) ∧
    decodeEnc ⟨7, 0x10160000, some 0x1000⟩ = some (.larmImm 0 22 0x1000) ∧ decodeEnc ⟨7, 0x14000013, none⟩ = some (.fence 0 2 3) ∧
    decodeEnc ⟨7, 0x18000004, none⟩ = some (.drain 0 4) ∧ decodeEnc ⟨7, 0x1C176001, none⟩ = some (.fsig 0 1 23 24) ∧
    decodeEnc ⟨7, 0x20196804, some 0x30D40⟩ = some (.mig 0 25 26 4 200000) ∧ decodeEnc ⟨7, 0x2C1B7000, none⟩ = some (.coll 0 0 27 28) ∧
    decodeEnc ⟨7, 0x301D7800, none⟩ = some (.tok 0 29 30) ∧ decodeEnc ⟨7, 0x381F0000, none⟩ = some (.acct 0 31) := by decide
/-- R106's law, one word of it with a reserved bit set (R85), and R87's sensor out of range. -/
theorem test_decode_law : decodeLaw 0x28880258 = some (.ldh 1 1 600) ∧ decodeLaw 0x98000000 = some .bend ∧
    decodeLaw 0x78108001 = none ∧ decodeLaw 0x0900FFFF = none := by decide
/-- A word of R303's table in the table's own numbering of bits. -/
theorem test_table_word : decodeTableWord 32 0x04010830 = some (.add .b 0 1 2 3) := by decide

/- Small states -/
/-- A context of a crew of the system at core 0, with AB, WB and CB windows as large as their buffers. -/
def ctx0 : Ctx := { Ctx.start with
  mode := .holding, crew := some 0, winAb := 0x0008000000000000, winWb := 0x000C000000000000, winCb := 0x0004000000000000 }
/-- The device in service with that context, whose crew's text is 64 bytes with a group at every word of the first 32. -/
def s0 : State := { State.reset.putBytes (mapKey 0 0 0) [0xFF] with
  ctxs := [(0, ctx0)], regs := [(rBootStage, 8)], pilot := { Pilot.start with crews := [(0, soloCrew 64)] } }
def withCtx (f : Ctx → Ctx) : State := { s0 with ctxs := [(0, f ctx0)] }
def withRegs (l : Map Word) : State := withCtx fun c => { c with sregs := l }
def withCrew (f : Crew → Crew) : State := { s0 with pilot := { Pilot.start with crews := [(0, f (soloCrew 64))] } }
def withCore (f : Core → Core) : State := { s0 with cores := [(0, f Core.start)] }
/-- One pending action of the context, due now. -/
def due (a : Act) : State := withCtx fun c => { c with pend := [⟨0, 0, .none, a⟩] }
/-- Registers of the package beside BOOT_STAGE. -/
def withPkg (l : Map Word) : State := { s0 with regs := (rBootStage, 8) :: l }

/-- A member of tenant 5 (partition 31, PASID 7), its first page translated to `tb`; frames at 2^40, scratch at 2^41. -/
def dev (tb : Nat) (fr : Frame) : State := { s0 with
  regs := [(rBootStage, 8), (rFrameAper, 0x10000000001), (rStackAper, 0x20000000001), (rTenantMap 5, 0x8000001F00000007)]
  atc := [⟨.core 0, 32, some 7, 0, 12, tb, true, true, false⟩, ⟨.core 0, 0, none, 0, 12, tb, true, true, false⟩]
  tier := { Tier.start with frames := [(3, fr)] }
  pilot := { Pilot.start with crews := [(0, { soloCrew 64 with tenant := some 5, part := some 31 })] } }
def inFrame (fr : Frame) : State := dev (2 ^ 40 + 65536 * 3) fr
def home : Frame := { Frame.start with state := .resident, owned := true, owner := 5, kind := 1 }

/-- Where nothing of the collective die waits, no task of it does. -/
theorem untried_of_none {s : State} (h : s.waits = []) (k : Task) : s.untried k := fun w hw => by rw [h] at hw; cases hw

/- Witnesses of the statements' hypotheses -/
theorem witness_decode : (Instr.add .a 0 1 2 3).wf = true ∧ encode (.add .a 0 1 2 3) = some ⟨1, 0x04010830, none⟩ ∧
    decodeEnc ⟨1, 0x04010830, none⟩ = some (.add .a 0 1 2 3) := by decide
theorem witness_opcodesRefused : (opcode 0).toNat = 0 ∧ 26 ≤ (opcode 0x68000000).toNat ∧ 42 ≤ (opcode 0xA8000000).toNat ∧
    (opcode 0xBC000000).toNat < 48 ∧ 52 ≤ (opcode 0xD0000000).toNat ∧ 34 ≤ (opcode 0x88000000).toNat ∧ (opcode 0x9C000000).toNat < 40 ∧
    56 ≤ (opcode 0xE0000000).toNat ∧ 5 ≤ (opcode 0x14000000).toNat ∧ 15 ≤ (opcode 0x3C000000).toNat ∧
    (0xC0000007 : W32).extractLsb' 0 3 = 7 ∧ (opcode 0xC0000007).toNat = 48 ∧ (opcode 0xC4000007).toNat = 49 ∧
    (opcode 0x14000007).toNat = 5 ∧ (opcode 0x18000007).toNat = 6 := by decide
def lawWitness : State := State.reset.withLaw 0x98000000
def opWitness : State := s0.withBundle (soloBytes ⟨1, 0x04010830, none⟩ (some (.add .a 0 1 2 3)))
def opBundle : Bundle := ⟨0, 8, 0x3F250002, 0, [(1, .add .a 0 1 2 3)]⟩
theorem witness_event : ∃ t, State.reset.mover = .event .frameSnapshot ∧ exec .frameSnapshot State.reset = .next t := ⟨_, rfl, rfl⟩
theorem witness_law : lawWitness.mover = .law ∧ lawWitness.bin.run = some (0, 0) ∧ decodeLaw 0x98000000 = some .bend ∧
    (lawWitness.lawAt 0).map (fun l => (l.code.drop 0).head?) = some (some 0x98000000) := by decide
theorem witness_issue : Issues opWitness 0 0 opBundle 1 (.add .a 0 1 2 3) :=
  ⟨by decide, by decide, by decide, by decide, by decide, by decide +kernel, by decide, by decide⟩
theorem witness_issue_ends : ∃ u, exec (.add .a 0 1 2 3) ((opWitness.atEdge 0).atOp 0 opBundle 1) = .next u ∧
    u.iss.stopped = none ∧ u.backEdgeBad u.groupEnd = false := ⟨_, rfl, by decide, by decide⟩
/-- A divider that is busy stops a group of one remainder. -/
def stopWitness : State := (s0.withBundle (soloBytes ⟨1, 0x20010830, none⟩ (some (.rem .a 0 1 2 3)))).modCtx 0 fun c =>
  { c with busy := [(fuNum .divA, 9)] }
def stopBundle : Bundle := ⟨0, 8, 0x3F250002, 0, [(1, .rem .a 0 1 2 3)]⟩
theorem witness_issue_stops : Issues stopWitness 0 0 stopBundle 1 (.rem .a 0 1 2 3) ∧
    ∃ u, exec (.rem .a 0 1 2 3) ((stopWitness.atEdge 0).atOp 0 stopBundle 1) = .next u ∧
      u.iss.stopped = some (.trap ⟨0x04, 2, 0⟩ 1) :=
  ⟨⟨by decide, by decide, by decide, by decide, by decide, by decide +kernel, by decide, by decide⟩, _, rfl, by decide⟩
/-- A device in service whose frame has begun, between actors. -/
def calm : State := { s0 with bin := { Bin.start with snapped := some 0 } }
theorem witness_settled (m : Mover) (l : List Nat) (r : Option (Nat × Nat)) :
    State.settled { calm with mover := m, todo := l, bin := { Bin.start with snapped := some 0, run := r } } :=
  ⟨(by decide +kernel : calm.ripe = none), fun _ h => (by cases h), Or.inl (by decide : 8 ≤ calm.stage)⟩
theorem witness_movers : SchedInv { calm with mover := .wait, todo := [], bin := { Bin.start with snapped := some 0, run := none } } ∧
    SchedInv { calm with mover := .core 0, todo := [0], bin := { Bin.start with snapped := some 0, run := none } } ∧
    SchedInv { calm with mover := .law, todo := [], bin := { Bin.start with snapped := some 0, run := some (0, 0) } } :=
  ⟨⟨rfl, rfl, witness_settled _ _ _⟩, ⟨rfl, rfl, witness_settled _ _ _⟩, rfl, witness_settled _ _ _⟩
theorem witness_trip : (3 : Nat) < 4 ∧ ({ s0 with tripped := true, mover := .wait } : State).tripped = true ∧
    ({ s0 with tripped := true, mover := .wait } : State).mover = .wait := by decide
theorem witness_guard : s0.guard (guardOf (.add .a 1 1 2 3)) = false := by decide
def landWitness : State := withCtx fun c => { c with pend := [⟨0, 0, .none, .sreg 63 7⟩, ⟨0, 1, .none, .sreg 63 8⟩, ⟨0, 2, .none, .pred 15 true⟩,
  ⟨0, 3, .none, .rotate true⟩, ⟨0, 4, .none, .window 3⟩, ⟨0, 5, .none, .lanes [(0, 1)]⟩, ⟨0, 6, .none, .mp 7 1⟩, ⟨0, 7, .none, .lc 5 1⟩,
  ⟨0, 8, .none, .ec 1⟩, ⟨0, 9, .none, .fmt 0x110⟩, ⟨1, 10, .none, .flags 1⟩] }
theorem witness_resultsLand : landWitness.landing? 0 = true ∧ (∀ p ∈ (landWitness.ctx 0).due, p.act.plain = true) ∧
    (landWitness.ctx 0).due.length = 10 := by decide
theorem witness_division : Map.get 0 s0.cur.busy (fuNum (dividerOf .a)) ≤ s0.cur.tick ∧ s0.guard 0 = true ∧
    stopWitness.guard 0 = true ∧ stopWitness.cur.tick < Map.get 0 stopWitness.cur.busy (fuNum (dividerOf .a)) ∧
    Map.get 0 stopWitness.cur.busy (fuNum (dividerOf .a)) < farTick ∧
    (withRegs [(1, 0x8000000000000000), (2, 0xFFFFFFFFFFFFFFFF)]).s 1 = BitVec.ofInt 64 (-(2 ^ 63)) ∧
    (withRegs [(1, 0x8000000000000000), (2, 0xFFFFFFFFFFFFFFFF)]).s 2 = BitVec.ofInt 64 (-1) := by decide
theorem witness_comparisons : (0 : BitVec 4).toNat ≤ 11 ∧ (11 : BitVec 4).toNat ≤ 11 := by decide
theorem witness_scalarFloat : fp32 ∈ [fp32, bf16, e4m3, e5m2] ∧ rne.fz = false ∧ 0xFF7FFFFF < 2 ^ fp32.width ∧
    0xFF7FFFFF % 2 ^ (fp32.width - 1) ≤ fp32.maxMag ∧ 0xFE % 2 ^ (e4m3.width - 1) ≤ e4m3.maxMag := by decide
theorem witness_scalarFrame : (∃ t, exec (.add .a 0 1 2 3) s0 = .next t) ∧ (∃ t, exec (.div .a 0 1 2 3) s0 = .next t ∧ t.iss.stopped = none) ∧
    (∃ t, exec (.fadd .a 0 1 2 3) s0 = .next t) ∧ (∃ t, exec (.pset .a 0 1 2 3 4) s0 = .next t) ∧
    (∃ t, exec (.fcmp .a 0 1 2 3 4) s0 = .next t) ∧ s0.iss.stopped = none :=
  ⟨⟨_, rfl⟩, ⟨_, rfl, by decide⟩, ⟨_, rfl⟩, ⟨_, rfl⟩, ⟨_, rfl⟩, rfl⟩
/-- Transfers to byte 4, to byte 32 where no group begins, and to byte 2; loops of one group and of eight. -/
theorem witness_transfers : s0.groupStart 0 4 = true ∧ s0.groupStart 0 32 = false ∧ (4 : Word).toNat % 4 = 0 ∧ (2 : Word).toNat % 4 ≠ 0 ∧
    s0.groupStart 0 (s0.s 63) = true ∧ s0.guard 0 = true := by decide
theorem witness_loops : (withRegs [(1, 9)]).groupFrom 0 0 0 = some 0 ∧ (withRegs [(1, 9)]).s 1 ≠ 0 ∧
    s0.groupFrom 0 0 0 = some 0 ∧ s0.cur.lcr 0 = 0 ∧ s0.groupFrom 0 0 1 = some 4 ∧ s0.groupStart 0 4 = true ∧
    s0.groupFrom 0 0 8190 = none := by decide
theorem witness_stages : 1 < ((withCtx fun c => { c with lc := [(0, 2)] }).cur.lcr 0).toNat ∧
    ((withCtx fun c => { c with lc := [(0, 1)], ec := 1 }).cur.lcr 0).toNat ≤ 1 ∧
    (withCtx fun c => { c with lc := [(0, 1)], ec := 1 }).cur.ec ≠ 0 ∧ (s0.cur.lcr 0).toNat ≤ 1 ∧ s0.cur.ec = 0 := by decide
def loopWitness (k ec : Word) (piped : Bool) : State := withCtx fun c =>
  { c with loops := [(5, ⟨0, 0, piped, false, true⟩)], lc := [(5, k)], ec := ec }
/-- Levels 4 and 5 end at the group; 4 falls away, and 5 with it or not. -/
def twoLoops (k : Word) : State := withCtx fun c =>
  { c with loops := [(4, ⟨0, 0, false, false, true⟩), (5, ⟨0, 0, false, false, true⟩)], lc := [(4, 1), (5, k)] }
theorem witness_groupEnds : ({ s0 with iss := { s0.iss with transfer := some 4 } } : State).iss.transfer = some 4 ∧
    (∀ m, m < 6 → (s0.cur.level m).active = false ∨ (s0.cur.level m).stop ≠ s0.iss.group) ∧
    (∀ e ∈ [loopWitness 1 0 false, loopWitness 2 0 false, loopWitness 2 0 true, loopWitness 1 1 true, loopWitness 0 0 true],
      e.iss.transfer = none ∧ (e.cur.level 5).active = true ∧ (e.cur.level 5).stop = e.iss.group ∧
      ∀ m, m < 6 → m ≠ 5 → (e.cur.level m).active = false ∨ (e.cur.level m).stop ≠ e.iss.group) ∧
    findStart (fun i => i % 2 == 0) 8 true 1 2 = some 4 := by decide
theorem witness_twoLoops : (∀ s ∈ [twoLoops 1, twoLoops 2], ((s.cur.level 4).active = true ∧ (s.cur.level 4).stop = s.iss.group) ∧
    ((s.cur.level 5).active = true ∧ (s.cur.level 5).stop = s.iss.group) ∧ s.cur.lcr 4 = 1) ∧
    (twoLoops 1).cur.lcr 5 = 1 ∧ (twoLoops 2).cur.lcr 5 ≠ 1 := by decide
theorem witness_wait : s0.iss.abOld = [] ∧ s0.cur.engErr = none ∧ (s0.s 0).toNat % 8 = 0 ∧ inWindow s0.cur.winAb 0 8 = true ∧
    (s0.landingHere 0).getLsbD 63 = false ∧ (s0.landingHere 0).getLsbD 62 = ((0 : BitVec 1) == 1) ∧
    (s0.landingHere 0).getLsbD 62 ≠ ((1 : BitVec 1) == 1) ∧ s0.guard 0 = true ∧
    (withCtx fun c => { c with engErr := some ⟨0x06, 1, 0⟩ }).cur.engErr ≠ none ∧ ((withRegs [(1, 4)]).s 1).toNat % 8 ≠ 0 ∧
    inWindow s0.cur.winAb 0x80000 8 = false := by decide
def barrierWitness (f : Crew → Crew) : State := withCrew fun cr => f { cr with tag := some 7 }
theorem witness_barriers : (s0.ctx 0).crew = some 0 ∧ s0.crew? 0 = some (soloCrew 64) ∧ (soloCrew 64).tag ≠ some 7 ∧
    (barrierWitness id).crew? 0 = some { soloCrew 64 with tag := some 7 } ∧
    (barrierWitness fun cr => { cr with arrivals := [0] }).crew? 0 = some { soloCrew 64 with tag := some 7, arrivals := [0] } ∧
    (barrierWitness fun cr => { cr with release := some 0 }).crew? 0 = some { soloCrew 64 with tag := some 7, release := some 0 } ∧
    (0 : Nat) ≤ (barrierWitness id).g ∧ ((barrierWitness id).ctx 0).arrived = none ∧
    (({ barrierWitness id with ctxs := [(0, { ctx0 with arrived := some (7, 0) })] } : State).ctx 0).arrived = some (7, 0) ∧
    ({ barrierWitness (fun cr => { cr with phase := 1 }) with ctxs := [(0, { ctx0 with arrived := some (7, 0) })] } : State).crew? 0 =
      some { soloCrew 64 with tag := some 7, phase := 1 } := by decide
/-- f = 0x110 is legal, and VE 7 is not. -/
theorem witness_formats : (let m (n : Nat) : Prop := n = 1 ∨ n = 2 ∨ n = 3 ∨ n = 8 ∨ n = 9
    let fld (v : W32) (hi lo : Nat) : Nat := v.toNat / 2 ^ lo % 2 ^ (hi + 1 - lo)
    let legal (v : W32) : Prop :=
      fld v 3 0 ≤ 6 ∧ m (fld v 7 4) ∧ m (fld v 11 8) ∧ (fld v 15 12 ≤ 5 ∨ fld v 15 12 = 8 ∨ fld v 15 12 = 9) ∧
      fld v 18 16 ≤ 4 ∧ (fld v 21 21 = 1 → fld v 11 8 = 1) ∧ fld v 31 26 = 0
    legal 0x110 ∧ ¬legal 0x117 ∧ (withRegs [(1, 0x110), (2, 0x117)]).s 1 = 0x110 ∧ (withRegs [(1, 0x110), (2, 0x117)]).s 2 = 0x117) := by
  refine ⟨by simp, by simp, by decide⟩
theorem witness_systemRegisters : (∀ e ∈ ([0x000, 0x001, 0x002, 0x003, 0x004, 0x005, 0x006, 0x007, 0x008, 0x010, 0x011, 0x012] :
      List (BitVec 10)), e ≠ 0x009) ∧ (due (.sys 0x012 5)).landing? 0 = true ∧
    ((due (.sys 0x012 5)).ctx 0).due = [⟨0, 0, .none, .sys (0x012 : BitVec 10).toNat 5⟩] := by decide +kernel
theorem witness_exception : (255 : Nat) < 256 ∧ (0x0C : Nat) ≠ 0x0B ∧ s0.iss.slot < 8 ∧
    ((withCtx fun c => { c with trapvec := 4 }).ctx 0).trapvec ≠ 0 ∧ ((withCtx fun c => { c with trapvec := 4 }).ctx 0).inh = false ∧
    (withCtx fun c => { c with trapvec := 4 }).groupStart 0 4 = true ∧ (s0.ctx 0).crew = some 0 ∧
    s0.crew? 0 = some (soloCrew 64) ∧ (soloCrew 64).ending = none ∧ (s0.ctx 0).trapvec = 0 ∧ 0 ∈ (soloCrew 64).members := by decide
/-- Tenant 5 has exhausted its account: its member, and the same with a routine in flight. -/
def spent (f : Ctx → Ctx) : State := { dev 4096 home with
  ctxs := [(0, f ctx0)], pilot := { (dev 4096 home).pilot with broke := [5] } }
theorem witness_spent : (∀ s ∈ [spent id, spent fun c => { c with busy := [(fuNum .array, 9)] }], s.broke 0 = true ∧ (s.ctx 0).crew = some 0 ∧
      s.crew? 0 = some { soloCrew 64 with tenant := some 5, part := some 31 }) ∧ (soloCrew 64).mode ≠ .saving ∧
    ((spent id).ctx 0).flying = false ∧ ((spent fun c => { c with busy := [(fuNum .array, 9)] }).ctx 0).flying = true := by decide
theorem witness_replay : (landWitness.ctx 0).pend.Pairwise (fun p q => p.seq ≤ q.seq) := by decide
def trapWitness : State := s0.withBundle (soloBytes ⟨0, 0x400000FF, none⟩ (some (.trap 0 0xFF)))
def trapBundle : Bundle := ⟨0, 8, 0x3FFD0001, 0, [(0, .trap 0 0xFF)]⟩
theorem witness_trap : Issues trapWitness 0 0 trapBundle 0 (.trap 0 0xFF) ∧
    let u := (trapWitness.atEdge 0).atOp 0 trapBundle 0
    u.guard 0 = true ∧ u.backEdgeBad u.groupEnd = false :=
  ⟨⟨by decide, by decide, by decide, by decide, by decide, by decide +kernel, by decide, by decide⟩, by decide⟩
theorem witness_returns : (withCtx fun c => { c with inh := true }).cur.inh = true ∧ s0.cur.inh = false ∧ s0.cur.engErr = none ∧
    ({ s0 with iss := { s0.iss with tret := true } } : State).iss.tret = true ∧
    (∀ t0 ∈ [0, 1], let c := (withCtx fun c => { c with treturn := some t0 }).ctx 0
      c.leaving = none ∧ c.treturn = some t0 ∧ c.quiet = true ∧ (t0 ≤ c.tick ↔ t0 = 0)) ∧ (landWitness.ctx 0).quiet = false := by decide
theorem witness_time : s0.guard 0 = true ∧ s0.partOf 0 = none ∧ (withCrew fun cr => { cr with part := some 31 }).partOf 0 = some 31 := by decide
def realignWitness : State := withCtx fun c => { c with realign := some ⟨0, 63⟩ }
theorem witness_realign : (BitVec.ofInt 64 (((s0.s 0).toInt + (192 : BitVec 10).toInt))).toNat ≤ s0.g + 192 ∧
    s0.g + 192 < (BitVec.ofInt 64 (((s0.s 0).toInt + (193 : BitVec 10).toInt))).toNat ∧ realignWitness.realignOver 0 = true ∧
    (realignWitness.ctx 0).realign = some ⟨0, 63⟩ ∧ s0.cur.sys = false ∧ (withCtx fun c => { c with sys := true }).cur.sys = true := by decide
def serving : State := { dev 4096 home with ctxs := [(0, { ctx0 with sys := true })] }
theorem witness_inject : (∃ u acc, serving.check 0 0 0 1 1 .r false = .ok u acc) ∧
    (∃ u st, serving.check 0 0 8192 1 1 .r false = .stop u st) ∧
    (let p : Posted := ⟨1, 0, none, 0, ⟨0, 4, none, 5, 4⟩, 1, [1, 2, 3, 4], 15, [], 0, false, 0, none, some (32, 7), none, 0⟩
     ∃ q ∈ ({ s0 with posted := [p] } : State).posted, q.cx = 0 ∧ q.hint ≠ none) :=
  ⟨⟨_, _, rfl⟩, ⟨_, _, rfl⟩, _, .head _, by decide, by decide⟩
theorem witness_ab : s0.iss.abOld = [] ∧ s0.abOk 0x7FFF8 8 true ∧ s0.abOk 0x7FFFF 1 false ∧ s0.guard 0 = true ∧
    2 % (2 ^ (2 : BitVec 2).toNat) ≠ 0 ∧ inWindow s0.cur.winAb 0x80000 8 = false ∧
    (withCtx fun c => { c with rdy := [(0, 9)] }).cur.notReady 0 8 = true ∧
    (let s := withCtx fun c => { c with abClaim := [(0, 505)] }
     inWindow s.cur.winAb 0 8 = true ∧ s.cur.notReady 0 8 = false ∧ 512 < Map.get 0 s.cur.abClaim s.cur.tick + 8) :=
  ⟨rfl, ⟨by decide, by decide, by decide, by decide⟩, ⟨by decide, by decide, by decide, by decide⟩, by decide, by decide, by decide,
    by decide, by decide⟩
theorem witness_amo : (0xFFFFFFFFFFFFFFFF : Nat) < 2 ^ (8 * 8) ∧ (8 : Nat) ≤ 8 := by decide
theorem witness_abLand : (due (.ab 0x7FFFF [1])).landing? 0 = true ∧
    ((due (.ab 0x7FFFF [1])).ctx 0).due = [⟨0, 0, .none, .ab 0x7FFFF [1]⟩] ∧ (Fu.none ≠ .converter) ∧
    ((due (.ab 0x7FFFF [1])).ctx 0).abTop = [] ∧ 0x7FFFF / 256 ≤ 2047 ∧ 2047 ≤ (0x7FFFF + 1 - 1) / 256 ∧
    (let s := withCtx fun c => { c with pend := [⟨0, 0, .none, .ab 0x7FFFF [1]⟩], abTop := [(3, 0x7FFFF, 1)] }
     s.landing? 0 = true ∧ (s.ctx 0).due = [⟨0, 0, .none, .ab 0x7FFFF [1]⟩] ∧
       ∃ e ∈ (s.ctx 0).abTop, e.1 / 8 = 0 / 8 ∧ 0 < e.1 ∧ e.2.1 ≤ 0x7FFFF + 0 ∧ 0x7FFFF + 0 < e.2.1 + e.2.2) := by decide
theorem witness_abFrame : s0.iss.stopped = none ∧ (∃ t, exec (.st 0 1 2 3 3 0 0 none) s0 = .next t ∧ t.iss.stopped = none) ∧
    (∃ t, exec (.ld 0 1 2 3 0 3 0 0 none) s0 = .next t ∧ t.iss.stopped = none) ∧
    (∃ t, exec (.amo 0 1 2 3 0 3 3 0 0) s0 = .next t ∧ t.iss.stopped = none) ∧
    (∃ t, exec (.cas 0 1 2 3 3 3 0 0) s0 = .next t ∧ t.iss.stopped = none) :=
  ⟨rfl, ⟨_, rfl, by decide⟩, ⟨_, rfl, by decide⟩, ⟨_, rfl, by decide⟩, _, rfl, by decide⟩
/-- An address that is not canonical, the canonical ends, and an access across each. -/
theorem witness_extent : ¬(2 ^ 56 < 2 ^ 56 ∨ 2 ^ 64 - 2 ^ 56 ≤ 2 ^ 56) ∧ (2 ^ 56 - 1 < 2 ^ 56 ∨ 2 ^ 64 - 2 ^ 56 ≤ 2 ^ 56 - 1) ∧
    ¬(2 ^ 56 - 1 + 8 - 1 < 2 ^ 56 ∨ 2 ^ 64 - 2 ^ 56 ≤ 2 ^ 56 - 1 + 8 - 1) ∧ 2 ^ 64 ≤ 2 ^ 64 - 1 + 8 - 1 ∧ (4 : Nat) % 8 ≠ 0 := by decide
theorem witness_frames : (inFrame home).tenantOf 0 = some 5 ∧ ((inFrame home).ctx 0).sys = false ∧
    (inFrame home).atcFind (.core (coreOf 0)) ((inFrame home).tenantPart 5 + 1) (some ((inFrame home).tenantPasid 5)) 0xFF8 =
      some ⟨.core 0, 32, some 7, 0, 12, 2 ^ 40 + 65536 * 3, true, true, false⟩ ∧
    (inFrame home).classify (2 ^ 40 + 65536 * 3 + (0xFF8 % 2 ^ 57 - 0)) = .frame 3 0xFF8 ∧
    (inFrame home).classify (2 ^ 40 + 65536 * 3 + (0xFF8 % 2 ^ 57 - 0) + 8 - 1) = .frame 3 0xFFF ∧
    (inFrame home).frame 3 = home ∧ (inFrame { home with owner := 4 }).frame 3 = { home with owner := 4 } ∧
    (inFrame { home with state := .retired }).frame 3 = { home with state := .retired } ∧
    (inFrame { home with state := .inFlight }).frame 3 = { home with state := .inFlight } ∧
    (inFrame home).tier.waking = [] ∧ (inFrame home).tier.copying = [] ∧ home.swm = false ∧ home.hbm < hbmFrames ∧
    (dev 4096 home).classify 4096 = .host 4096 ∧ (dev (2 ^ 41) home).classify (2 ^ 41) = .stack 0 ∧
    (dev (2 ^ 41) home).scratchOk (some 31) 0 = false := by decide
/-- Posted stores to host memory at each stage, and a hint, free of what they must follow or held by one that waits. -/
def postedAt (st : Nat) (hint : Option (Nat × Nat)) (needs : List (Nat × Nat)) : Posted :=
  ⟨1, 0, some 5, 0, ⟨4096, 4, none, 5, 4⟩, 1, [1, 2, 3, 4], 15, needs, st, false, 0, none, hint, none, 0⟩
def withPosted (l : List Posted) : State := { dev 4096 home with posted := l }
/-- A context whose loads and stores wait for a store that is posted. -/
def waiting : State := { withPosted [postedAt 0 none []] with ctxs := [(0, { ctx0 with loadHold := [(1, 2)], storeHold := [(1, 2)] })] }
theorem witness_deviceLoads : (1 : BitVec 2) ≠ 3 ∧ (dev 4096 home).guard 0 = true ∧ (dev 4096 home).iss.stopped = none ∧
    (∃ u acc, (dev 4096 home).check 0 0 8 8 1 .r false = .ok u acc ∧
      let h := u.opAt acc 1 8 (.load false) 8 1 false false 0
      let v := u.newId.2
      let got := v.readAcc 0 h.tick acc
      v.opNeeds h = [] ∧ got.dead = false ∧ got.poison = false ∧ got.s.iss = (dev 4096 home).iss ∧ got.s.cur.tick = (dev 4096 home).cur.tick) ∧
    (∃ u acc, waiting.check 0 0 8 8 1 .r false = .ok u acc ∧
      u.newId.2.opNeeds (u.opAt acc 1 8 (.load false) 8 1 false false 0) ≠ []) ∧
    (∃ u acc, (inFrame { home with state := .scrub }).check 0 0 8 8 1 .r false = .zero u acc) ∧
    (∃ u st, (dev 4096 home).check 0 0 4 8 1 .r false = .stop u st) ∧
    (∃ u acc, (dev 4096 home).check 0 0 8 8 1 .w false = .ok u acc) ∧
    ((2 : BitVec 2) = 2 ∧ 2 ≤ (2 : BitVec 3).toNat) ∧
    ∃ u st, (dev 4096 home).check 0 0 4 8 1 .w false = .stop u st :=
  ⟨by decide, by decide, rfl, ⟨_, _, rfl, by decide, by decide, by decide, rfl, rfl⟩, ⟨_, _, rfl, by decide⟩, ⟨_, _, rfl⟩, ⟨_, _, rfl⟩,
    ⟨_, _, rfl⟩, by decide, _, _, rfl⟩
/-- A load of a frame homed on die 3; and one of a frame in SCRUB, by a context whose loads wait. -/
theorem witness_far : (∃ u acc, (inFrame { home with hbm := 9437183 }).check 0 0 8 8 1 .r false = .ok u acc ∧ acc.level ≠ 0 ∧ acc.die = 3) ∧
    (∃ u acc, ({ inFrame { home with state := .scrub } with posted := waiting.posted, ctxs := waiting.ctxs } : State).check 0 0 8 8 1 .r false =
      .zero u acc ∧ u.newId.2.opNeeds (u.opAt acc 1 8 (.load false) 8 1 false false 0) ≠ []) ∧
    0 < transit 0 3 ∧ transit 0 4 = 0 :=
  ⟨⟨_, _, rfl, by decide, by decide⟩, ⟨_, _, rfl, by decide⟩, Nat.lt_of_lt_of_le (by decide : 0 < 140) (Nat.le_add_right _ _), by decide⟩
/-- Granule 1 of frame 3 in way 0 of die 0's stack, which tenant 5 may use. -/
def gran : Gran := ⟨5, 3, 1, 1, 1, [1], 1, .clean⟩
def stacked (fr : Frame) (l : List Posted) : State := { inFrame fr with
  regs := (inFrame fr).regs ++ [(rStackWays 5, 1)], die := [(0, 2)], posted := l
  tier := { (inFrame fr).tier with stack := [(0, gran)] } }
theorem witness_unmarked : (inFrame home).unmarked ∧ (stacked home []).unmarked := ⟨by unfold State.unmarked; decide, by unfold State.unmarked; decide⟩
theorem witness_reads : (64 % 64 + 8 ≤ 64) ∧ (inFrame home).forwarded 0 0 ⟨64, 8, some 3, 3, 0⟩ = [] ∧
    ((inFrame home).frame 3).state ≠ .retired ∧ (inFrame home).homeCopy 3 (64 / 64) = none ∧
    ((stacked home []).frame 3).state ≠ .retired ∧ (stacked home []).forwarded 0 0 ⟨64, 8, some 3, 1, 0⟩ = [] ∧
    (stacked home []).ownerOf 0 = some 5 ∧ (stacked home []).stackCopy 0 3 (64 / 64) (some 5) = some (0, gran) ∧
    (let s : State := { inFrame home with cores := [(0, { Core.start with cache := [(3 * 1024 + 1, [7])] })] }
     Map.get [] (s.core (coreOf 0)).cache (lineKey ⟨64, 8, some 3, 0, 0⟩) ≠ []) := by decide
theorem witness_deviceAtomics : (∀ s ∈ [dev 4096 home, waiting], s.check 0 0 56 8 1 .rw false = .ok s ⟨4096 + 56, 8, none, 5, 4⟩) ∧
    (4096 + 56) % 64 + 8 ≤ 64 ∧ (let s := dev 4096 home
      s.open' (s.sameGranule 0 ⟨4096 + 56, 8, none, 5, 4⟩ ++ s.cur.loadHold) = [] ∧ s.open' (s.cur.storeHold ++ s.outstanding 0 5) = []) ∧
    waiting.open' (waiting.sameGranule 0 ⟨4096 + 56, 8, none, 5, 4⟩ ++ waiting.cur.loadHold) ≠ [] :=
  ⟨fun s h => (by
      cases h with
      | head => rfl
      | tail _ h => cases h with
        | head => rfl
        | tail _ h => cases h), by decide, by decide, by decide⟩
theorem witness_posted :
    (∀ p ∈ [postedAt 0 none [], postedAt 1 none [], postedAt 2 none [], { postedAt 2 none [] with sys := true }, postedAt 3 none [],
        postedAt 0 (some (31, 7)) []],
      (withPosted [p]).posted.find? (·.id == 1) = some p ∧ ((withPosted [p]).open' p.needs).isEmpty = true) ∧
    (withPosted [postedAt 0 none [(1, 9)]]).posted.find? (·.id == 1) = some (postedAt 0 none [(1, 9)]) ∧
    ((withPosted [postedAt 0 none [(1, 9)]]).open' [(1, 9)]).isEmpty = false ∧ (31 : Nat) < 32 ∧ 4096 % 64 + 4 ≤ 64 ∧ 15 < 2 ^ 4 ∧
    (withPosted []).tenantOf 0 = some 5 ∧ (withPosted []).fnStopped ((withPosted []).fnPasid (some 5)).1 = false ∧
    ({ withPosted [] with tdisp := [(32, 3)] } : State).fnStopped 32 = true := by decide
/-- A store to a frame, one to scratch, and an `inject`. -/
def toFrame : Posted := { postedAt 0 none [] with acc := ⟨64, 4, some 3, 1, 0⟩ }
def toScratch : Posted := { postedAt 0 none [] with acc := ⟨0, 4, none, 4, 0⟩ }
def toMark : Posted := { postedAt 0 none [] with acc := ⟨0, 1, some 3, 1, 0⟩, bytes := [], mask := 0, inject := some 4 }
/-- They perform in another die's HBM, in the own die's HBM and stack, and in scratch. -/
theorem witness_posted2 :
    (let s : State := { inFrame { home with hbm := 9437183 } with posted := [toFrame] }
     (s.placed toFrame).die = 3 ∧ (3 : Nat) ≠ dieOf toFrame.cx ∧ toFrame.hint = none ∧ toFrame.stage = 0) ∧
    (let s : State := { inFrame home with posted := [toFrame] }
     (s.placed toFrame).die = dieOf toFrame.cx ∧ (s.placed toFrame).level = 3 ∧ (s.frame 3).swm = false ∧ s.homeCopy 3 (64 / 64) = none) ∧
    (let s := stacked home [toFrame]
     (s.placed toFrame).die = 0 ∧ (s.placed toFrame).level = 1 ∧ s.stackCopy 0 3 (64 / 64) toFrame.owner = some (0, gran)) ∧
    toFrame.inject = none ∧ toFrame.entry = none ∧ 64 % 64 + toFrame.bytes.length ≤ 64 ∧ toFrame.mask < 2 ^ toFrame.bytes.length ∧
    (∀ p ∈ [toFrame, toMark], let s : State := { inFrame home with posted := [p] }
      s.notOwned 3 p.owner = false ∧ (s.frame 3).state = .resident ∧ (s.placed p).frame = some 3 ∧ p.hint = none) ∧
    ({ inFrame home with posted := [toScratch] } : State).placed toScratch = ⟨0, 4, none, 4, 0⟩ ∧ toMark.inject = some 4 := by decide
/- Tiles: v2 and v3 as 0x10 and 0x18 whole, 0x12 and 0x1A rows, 0x14 and 0x1C columns -/
def withF (f : W32) : State := withCtx fun c => { c with f := f }
def withBusy (fu : Fu) : State := withCtx fun c => { c with busy := [(fuNum fu, 9)] }
theorem witness_tileArithmetic : fVE (withF 5).cur.f ≤ 5 ∧ s0.aluFree .v ∧ s0.aluFree .w ∧ s0.guard 0 = true ∧
    5 < fVE (withF 6).cur.f ∧ (withBusy .alu1).cur.tick < Map.get 0 (withBusy .alu1).cur.busy (fuNum (aluOf .w)) ∧
    Map.get 0 (withBusy .alu1).cur.busy (fuNum (aluOf .w)) < farTick :=
  ⟨by decide, by unfold State.aluFree; decide, by unfold State.aluFree; decide, by decide, by decide, by decide, by decide⟩
theorem witness_zeroSum : Exact.sgn true 1 * 1 + Exact.sgn false 1 * 1 = 0 ∧ Exact.sgn true 0 * 2 + Exact.sgn true 0 * 1 = 0 := by decide
theorem witness_maxMin : (Exact.nan true).isNaN = true ∧ (Exact.fin false 1 1).isNaN = false ∧
    (Exact.fin true 1 1).lt (.fin false 1 1) = true ∧ (Exact.fin false 1 1).lt (.fin true 1 1) = false := by decide
theorem witness_tileLogic : (fVE s0.cur.f ≤ 3 ∧ (7 : BitVec 11).toNat % 16 ≤ 7) ∧
    ((fVE (withF 4).cur.f = 4 ∨ fVE (withF 4).cur.f = 5) ∧ (11 : BitVec 11).toNat % 16 ≤ 11) ∧ fVE (withF 6).cur.f ≤ 6 := by decide
theorem witness_movingLanes : Shape.rowLike 0x10 0x18 = true ∧ Shape.rowLike 0x12 0x1A = true ∧ Shape.colLike 0x14 0x1C = true ∧
    Shape.rowLike 0x12 0x22 = true := by decide
theorem witness_reductions : Shape.redX 0x14 0x18 = true ∧ Shape.redX 0x12 0x1A = true ∧ Shape.redY 0x12 0x18 = true ∧
    Shape.redY 0x14 0x1C = true ∧ [Exact.fin false 1 1, .fin false 2 1].Perm [.fin false 2 1, .fin false 1 1] ∧
    (List.replicate 64 0x7FC00000).length = 64 ∧
    (∀ j, j < 64 → ((elemOf (fVE 0)).decode (rndOf 0).fz ((List.replicate 64 0x7FC00000).getD j 0)).isNaN = true) ∧
    ∃ j, j < 64 ∧ ((elemOf (fVE 0)).decode (rndOf 0).fz ((List.replicate 64 0).getD j 0)).isNaN = false :=
  ⟨by decide, by decide, by decide, by decide, .swap _ _ _, by decide, by decide +kernel, 63, by decide, by decide +kernel⟩
theorem witness_special : fVE (withF 1).cur.f ≤ 1 ∧ 1 < fVE (withF 2).cur.f ∧ (1 : Nat) ≠ 0 ∧ (149 : Nat) ≤ 149 := by decide
/-- A lane that is defined, and one that is not. -/
theorem witness_phasorSums : (let as := ([0] : List W32).filter fun v => v.getLsbD 0
      as.length = 0) ∧
    (let as := (([1] : List W32).filter fun v => v.getLsbD 0).map fun v => v.toNat / 2 % 32768
     ¬((as.length : Int) = 0 ∨ (as.map cosTable).sum * (as.map cosTable).sum + (as.map sinTable).sum * (as.map sinTable).sum <
       (4 * (as.length : Int)) * (4 * (as.length : Int)))) := by decide +kernel
theorem witness_transposes : (2 : BitVec 2) ≠ 3 ∧ s0.unitStop .transposer = none ∧
    (withBusy .transposer).unitStop .transposer = some (.trap ⟨0x04, 2, 0⟩ (withBusy .transposer).iss.slot) ∧
    (withBusy .transposer).guard 0 = true := by decide
theorem witness_tileMemory : Shape.mem 0x10 = true ∧ Shape.mem 0x12 = true ∧ s0.tmStop 0x10 0x7F000 4096 64 true none = none ∧
    s0.tmStop 0x12 0x7FF00 256 64 true (some 0) = none ∧ s0.tmStop 0x10 0x7F000 4096 64 false none = none ∧
    (fVE s0.cur.f = 0 ∨ fVE s0.cur.f = 4) ∧ s0.tmStop 0x12 0 256 (dfAlign (fDF s0.cur.f)) false none = none ∧
    dfBytes (fDF s0.cur.f) 64 = 256 ∧ s0.guard 0 = true ∧ (4 : Nat) % 64 ≠ 0 ∧ inWindow s0.cur.winAb 0x7FFC0 256 = false ∧
    inWindow s0.cur.winAb 0 4096 = true ∧
    (∃ b, 0 / 1024 ≤ b ∧ b ≤ (0 + 4096 - 1) / 1024 ∧ Map.get 0 (s0.core (coreOf s0.iss.cx)).bays b ≠ (1 : BitVec 16).toNat) ∧
    fVE (withF 1).cur.f ≠ 0 ∧ fVE (withF 1).cur.f ≠ 4 :=
  ⟨by decide, by decide, by decide, by decide, by decide, by decide, by decide, by decide, by decide, by decide, by decide, by decide,
    ⟨3, by decide⟩, by decide, by decide⟩
theorem witness_tileFrame : s0.iss.stopped = none ∧ (∃ t, exec (.vadd .v 0 0x10 0x18 0x20 0 none) s0 = .next t ∧ t.iss.stopped = none) ∧
    (∃ t, exec (.vld .v 0 0x12 0 0 none) s0 = .next t ∧ t.iss.stopped = none) ∧
    ∃ t, exec (.vst .v 0 0x12 0 0 none) s0 = .next t ∧ t.iss.stopped = none :=
  ⟨rfl, ⟨_, rfl, by decide +kernel⟩, ⟨_, rfl, by decide +kernel⟩, _, rfl, by decide +kernel⟩
/- Matrix: f = 0x110 takes BF16 activations and weights, whose block at WB address 0 has two groups -/
def mat (f : Ctx → Ctx) : State := (withCtx fun c => f { c with f := 0x110 }).putBytes (wbKey 0 0) [1, 0, 2, 0]
theorem witness_legalMul : legalMul (mat id).cur.f ∧ legalMul (mat fun c => { c with f := 0x200110 }).cur.f ∧ ¬legalMul (withF 0).cur.f :=
  ⟨by unfold legalMul; decide, by unfold legalMul; decide, by unfold legalMul; decide⟩
theorem witness_blocks : let s := mat id
    let img := s.bytes (wbKey 0 0) (imageBytes 1 0)
    fMB s.cur.f = 1 ∧ fSP s.cur.f = 0 ∧ (s.cur.mpr 0).toNat % 16 = 0 ∧ inWindow s.cur.winWb 0 (imageBytes 1 0) = true ∧ byteAt img 0 = 1 ∧
    byteAt img 1 = 0 ∧ leAt img 2 2 = groupsOf 1 0 ∧ leAt img 4 12 = 0 ∧ s.unitStop .decompressor = none ∧
    (∀ r ∈ s.cur.mmas, r.bank = s.cur.active ∨ r.last ≤ s.cur.tick) ∧ fSM s.cur.f = false ∧
    fSM (mat fun c => { c with f := 0x200110 }).cur.f = true ∧ (s.cur.mpr 1).toNat % 4 = 0 ∧ inWindow s.cur.winAb 0 192 = true ∧
    s.cur.notReady 0 192 = false ∧ ∀ i, i < (192 + 255) / 256 → Map.get 0 s.cur.abClaim (s.cur.tick + i) ≤ 256 := by decide +kernel
theorem witness_column : let b : Bank := ⟨1, 4, [1], none, 0, none⟩
    b.img ≠ [] ∧ b.sp ≤ 4 ∧ (127 : Nat) < 128 ∧ 47 < b.k := by decide
theorem witness_product : let s := mat id
    (0x3FF : BitVec 16).toNat < 1024 ∧ (s.cur.mpr 0).toNat % aAlign 1 = 0 ∧ (s.cur.mpr 1).toNat % aAlign 1 = 0 ∧
    (s.cur.mpr 2).toNat % 512 = 0 ∧
    (∀ i, i < 256 → inWindow s.cur.winAb (s.cur.mpr 0 + s.cur.mpr 1 * BitVec.ofNat 64 i).toNat 192 = true ∧
      inWindow s.cur.winCb (s.cur.mpr 2 + 512 * BitVec.ofNat 64 i).toNat 512 = true) ∧
    s.cur.notReady 0 192 = false ∧ s.unitStop .array = none ∧ (s.cur.bankOf true).ready ≤ s.cur.tick ∧
    (∀ r ∈ s.cur.mmas, r.bank = s.cur.active → r.enter ≤ s.cur.tick) ∧ (s.cur.bankOf true).bad = none ∧
    (∀ i, i < 256 → Map.get 0 s.cur.cbClaim (s.cur.tick + 31 + 1 * i) ≤ 512) ∧
    (∀ i, i < 1 * 256 → Map.get 0 s.cur.abClaim (s.cur.tick + i) + (192 + 1 - 1) / 1 ≤ 512) ∧ s.guard 0 = true ∧ s.guard 1 = false ∧
    ¬((mat fun c => { c with bank1 := { Bank.start with ready := 9 } }).cur.bankOf true).ready ≤ 0 ∧
    ((mat fun c => { c with bank1 := { Bank.start with bad := some 16 } }).cur.bankOf true).bad = some 16 := by decide +kernel
theorem witness_rows : ∀ a ∈ ([.mmaFetch 1 0 192 1 0 true true, .mmaAcc 1 [] 1 0 false true, .rotRow 0 32, .rotRow 0 128, .rotRow 0 0,
      .drnRow 0 0 0 0 0x110, .cb 0x3FE00 [1], .ab 0x7FFFF [1], .mmaDone, .mp 7 1] : List Act),
    (due a).landing? 0 = true ∧ ((due a).ctx 0).due = [⟨0, 0, .none, a⟩] := by decide
theorem witness_passes : let s := mat id
    (0xFF : BitVec 16).toNat < 256 ∧ (∀ i, i < 256 → inWindow s.cur.winCb (s.cur.mpr 2 + 512 * BitVec.ofNat 64 i).toNat 512 = true) ∧
    s.unitStop .converter = none ∧ s.unitStop .cbPort = none ∧ (s.cur.mpr 0).toNat % dfAlign (fDF s.cur.f) = 0 ∧
    (∀ i, i < 256 → inWindow s.cur.winAb (s.cur.mpr 0 + s.cur.mpr 1 * BitVec.ofNat 64 i).toNat (dfBytes (fDF s.cur.f) 128) = true) ∧
    (∀ i, i < 256 → Map.get 0 s.cur.cbClaim (s.cur.tick + i) + 1024 ≤ 1024) ∧
    (∀ i, i < 256 → Map.get 0 s.cur.abClaim (s.cur.tick + 11 + i) + dfBytes (fDF s.cur.f) 128 ≤ 512) ∧
    ((mat fun c => { c with mp := [(2, 4)] }).cur.mpr 2).toNat % 512 ≠ 0 := by decide +kernel
theorem witness_rotClaims (k : Nat) : Map.get 0 (mat id).cur.cbClaim k + (if 0 ≤ k ∧ k < 0 + 256 then 512 else 0) +
    (if 0 + 31 ≤ k ∧ k < 0 + 31 + 256 then 512 else 0) ≤ 1024 := by
  show 0 + _ + _ ≤ 1024
  split <;> split <;> decide
theorem witness_snapshots : (0x10 : TileOp).dir = .whole ∧ (0x12 : TileOp).dir = .row ∧
    (∀ l ∈ (List.range 16).map (16 * (63 : BitVec 9).toNat + ·), inWindow s0.cur.winCb (256 * l) 256 = true) ∧
    (∀ e ∈ (List.range 8).map (fun i => (s0.cur.tick + i, 512)), Map.get 0 s0.cur.cbClaim e.1 + e.2 ≤ 1024) ∧
    [16 * (64 : BitVec 9).toNat].find? (fun l => !inWindow s0.cur.winCb (256 * l) 256) = some 1024 ∧ 6 ≤ (6 : BitVec 6).toNat := by decide
/- Engines -/
/-- A command in the queue of core 0, of the member there. -/
def entryOf (cmd : Cmd) : Entry := ⟨1, 0, 0, cmd, 0, [], false, false, 0, 0, [], none, none, 0, none⟩
def engine (tb : Nat) (cmd : Cmd) : State := { dev tb home with
  atc := [⟨.bulk 0, 32, some 7, 0, 12, tb, true, true, false⟩], cores := [(0, { Core.start with queue := [entryOf cmd] })] }
/-- Operand blocks at AB 0: bulk commands of one element of 64 bytes, with a multicast mask or none; a collective of one FP32. -/
def withBlock (mask : Byte) : State :=
  s0.putBytes (abKey 0 0) [1, 6, 0, mask, 0, 0, 8, 0, 0, 1, 0, 0, 0, 0, 0, 0, 1]
def withColl : State := s0.putBytes (abKey 0 0) [0, 1, 0, 0, 0, 2, 0, 0, 1, 0, 0, 0, 0, 4]
theorem witness_commands : (∀ m ∈ ([0, 1] : List Byte), let s := withBlock m
      let bs := s.abSoon 0 0 64
      let blk := blkOf bs
      (s.core 0).queue.length < 16 ∧ blk.esize = 6 ∧ 0 % 2 ^ blk.esize = 0 ∧ (∀ e ∈ blk.dims, e.2 % (2 ^ blk.esize : Nat) = 0) ∧
      rangeFault (blk.low 0) (blk.high 0) = none ∧ inWindow (windowOf s.cur blk.dkind) blk.dbase blk.extent = true ∧
      inWindow s.cur.winAb blk.lobj 8 = true ∧ 0 < blk.extent ∧ blk.dkind = 0 ∧ blk.cmask = m.toNat ∧
      (m = 0 → blkBad bs 0 = false ∧ blkBad bs 1 = false) ∧ blkBad bs 2 = false ∧ ∀ r ∈ receivers 0 1, s.holdsMember 0 r = true) := by
  decide +kernel
theorem witness_commands2 : let s := withColl
    let bs := s.abSoon 0 0 64
    s.collBad 0 bs = false ∧ leAt bs 0 4 % 4 = 0 ∧ inWindow s.cur.winAb (leAt bs 0 4) 4 = true ∧ leAt bs 8 4 = 1 ∧ byteAt bs 12 = 0 ∧
    inWindow s.cur.winAb (leAt bs 4 4) 4 = true ∧ inWindow s.cur.winAb 0 64 = true ∧ inWindow s.cur.winAb 0 8 = true ∧
    inWindow s.cur.winAb 0 16 = true ∧ (1 : Nat) ≠ 0 ∧ (0 : Nat) % 65536 = 0 ∧ canonical 0 = true ∧ rangeFault 0 (0 + 64 - 1) = none ∧
    (let full := withCore fun k => { k with queue := List.replicate 16 (entryOf (.tok 0 0)) }
     16 ≤ (full.core 0).queue.length ∧ full.guard 0 = true) := by decide +kernel
/-- A load of the context that is held. -/
def heldLoad : Held := ⟨2, 0, ⟨4096, 8, none, 5, 4⟩, 1, 8, .load false, 0, 1, 1, false, false, 0, 0, [(1, 9)], [], 0⟩
def withHeld : State := { withPosted [postedAt 0 none []] with cores := [(0, { Core.start with held := [heldLoad], pending := [2] })] }
/-- The same load with nothing left that it must follow, and the place it keeps among the actions of its context. -/
def withReady : State := { withHeld with
  cores := [(0, { Core.start with held := [{ heldLoad with needs := [] }], pending := [2] })],
  ctxs := [(0, { ctx0 with pend := [⟨3, 1, .none, .sreg 4 9⟩, ⟨3, 1, .none, .load 2 1⟩] })] }
theorem witness_landings : ((withRegs [(1, 0x7FFF8)]).s 1).toNat % 8 = 0 ∧ inWindow s0.cur.winAb 0x7FFF8 8 = true ∧ (4 : Nat) % 8 ≠ 0 ∧
    inWindow s0.cur.winAb 0x80000 8 = false ∧ (due (.larm 8 0)).landing? 0 = true ∧
    ((due (.larm 8 0)).ctx 0).due = [⟨0, 0, .none, .larm 8 0⟩] ∧ 0 < 2 ^ 32 - 1 ∧
    ((0x8000000000000001 : Word).toNat / 2 ^ 63 = 1 ∧ ((0x8000000000000001 : Word).toNat % 2 ^ 32 + 2 ^ 32 - 1) % 2 ^ 32 = 0) ∧
    ¬((1 : Word).toNat / 2 ^ 63 = 1) ∧ s0.cur.engErr = none ∧ s0.guard 0 = true ∧ withHeld.heldOf 0 = [heldLoad] ∧
    (1 : BitVec 2) ≠ 2 ∧ 2 ≤ (2 : BitVec 3).toNat ∧
    (withCtx fun c => { c with engErr := some ⟨6, 1, 0⟩ }).cur.engErr ≠ none ∧
    (let s := { dev 4096 home with ctxs := [(0, { ctx0 with pend := [⟨0, 0, .none, .acct 1 200⟩] })] }
     s.landing? 0 = true ∧ (s.ctx 0).due = [⟨0, 0, .none, .acct 1 200⟩] ∧ s.tenantOf 0 = some 5) := by decide +kernel
/-- Commands that run: a hint, a token, a bulk store and a bulk load of one element of host memory, a mutual time. -/
theorem witness_progress : (∀ cmd ∈ ([.pref 1 0 64, .tok 1 2, .bulk 1 6 0 0 0 0 0 0 [(1, 0)] 0, .bulk 0 6 1 0 0 0 8 0 [(1, 0)] 0,
      .fsig 3 1 0 16] : List Cmd), let s := engine 4096 cmd
      let e := entryOf cmd
      s.entry? 0 1 = some e ∧ e.id = 1 ∧ e.stopped = false ∧ e.done < cmd.total ∧ e.done ≠ 1 ∧ s.mayGo 0 e = true ∧ e.carry = [] ∧
      e.since ≤ s.g ∧ e.behind = none ∧ e.landAt ≤ s.g ∧ s.waits = [] ∧ coreOf e.cx = 0 ∧ e.formed = none ∧ e.sent = false ∧ ({ e with done := cmd.total } : Entry).sent = true ∧
      (s.ctx e.cx).abStores = [] ∧ (s.ctx e.cx).notReady 0 64 = false ∧ nextElem (elemAddr [(1, 0)] 0) e.done 1 = some 0) ∧
    (engine 4096 (.fsig 3 1 0 16)).tokenForms 0 (entryOf (.fsig 3 1 0 16)) 3 = true ∧
    (0 : Nat) % 16 = 0 ∧ 0 + 16 ≤ 16 ∧ (8 : Nat) + 8 ≤ 2 ^ 20 ∧ 0 + 64 * 1 ≤ 2 ^ 20 ∧ 4096 % 64 = 0 ∧
    (let e := { entryOf (.pref 1 0 64) with done := 1, started := true }
     ∀ q ∈ [e, entryOf (.pref 1 0 64)], s0.finished 0 q = true ↔ q = e) ∧
    (let js := granElems (elemAddr [(1, 0)] 0) 0 1
     (∀ j ∈ js, (elemAddr [(1, 0)] 0 j % 64).toNat + 64 ≤ 64) ∧ js = [0]) := by decide +kernel
/-- A command whose memory has been translated owes no charge any more. -/
theorem witness_charge : let s := engine 4096 (.bulk 0 6 1 0 0 0 8 0 [(1, 0)] 0)
    let e := { entryOf (.bulk 0 6 1 0 0 0 8 0 [(1, 0)] 0) with owing := some ⟨0, 0, [6, 6, 6, 6]⟩ }
    e.owing = some ⟨0, 0, [6, 6, 6, 6]⟩ ∧ s.payer e = some 5 ∧
    none ∈ e.cmd.places.map (fun p => { s with atc := [] }.tierOf (coreOf e.cx) (some 5) p.1 p.2) ∧
    e.cmd.places.map (fun p => s.tierOf (coreOf e.cx) (some 5) p.1 p.2) = [2].map some := by decide
def storing : State := engine 4096 (.bulk 1 6 0 0 0 0 0 0 [(1, 0)] 0)
def loading : State := engine 4096 (.bulk 0 6 1 0 0 0 8 0 [(1, 0)] 0)
theorem witness_beats :
    (∃ u ac, (storing.setEntry 0 { entryOf (.bulk 1 6 0 0 0 0 0 0 [(1, 0)] 0) with started := true }).checkBy (.bulk 0) 0 7
      (BitVec.ofInt 64 (elemAddr [(1, 0)] 0 0)) 64 1 .w false = .ok u ac) ∧
    (let s1 := loading.setEntry 0 { entryOf (.bulk 0 6 1 0 0 0 8 0 [(1, 0)] 0) with started := true }
     s1.checkBy (.bulk 0) 0 7 (BitVec.ofNat 64 (elemAddr [(1, 0)] 0 0).toNat) 64 1 .r false = .ok s1 ⟨4096, 64, none, 5, 4⟩) ∧
    loading.open' (loading.beforeLoad 0 ⟨4096, 64, none, 5, 4⟩) = [] ∧ loading.forwarded 0 0 ⟨4096, 64, none, 5, 4⟩ = [] :=
  ⟨⟨_, _, rfl⟩, rfl, rfl, rfl⟩
def collWitness : State := { engine 4096 (.coll 0 0 256 1 0 4 0 0 9 8 0) with colls := [⟨1, 0, 9, 0, [⟨0, 0, 1, [0, 0, 0x80, 0x3F]⟩]⟩] }
theorem witness_collective : collWitness.colls.find? (·.id == 1) = some ⟨1, 0, 9, 0, [⟨0, 0, 1, [0, 0, 0x80, 0x3F]⟩]⟩ ∧
    (∃ cr, collWitness.crew? 0 = some cr ∧ cr.c * cr.d = 1) ∧ [(⟨0, 0, 1, [0, 0, 0x80, 0x3F]⟩ : Part)].Pairwise (fun a b => a.rank < b.rank) ∧
    ([0] : List Nat).Nodup ∧ collWitness.entry? 0 1 = some (entryOf (.coll 0 0 256 1 0 4 0 0 9 8 0)) ∧
    inWindow (collWitness.ctx 0).winAb 256 (1 * 4) = true ∧ 8 + 8 ≤ 2 ^ 22 ∧ 8 + 8 ≤ 256 ∧ (1 : Nat) ≤ 2 ^ 0 :=
  ⟨by decide, ⟨_, rfl, rfl⟩, by decide, by decide, by decide, by decide, by decide, by decide, by decide⟩
/- Binnacle -/
def lawOne : Law := ⟨[0x98000000], [], none, [], false, 1⟩
/-- A law in slot 1, and what the loader has accepted. -/
def withLaws (g : Nat) (snapped : Option Nat) (acts : List LawAct) : State := { s0 with
  g := g, bin := { Bin.start with laws := [(1, lawOne)], acts := acts, snapped := snapped } }
theorem witness_lawWords : lawWitness.running = some (0, lawOne) ∧ (14 : BitVec 4) ≠ 15 := by decide
/-- A law of one word is loaded on PF0; a law without an end is not; a second action of the interface waits. -/
def lawCode (s : State) : List W32 := (List.range 64).map fun i => (s.reg (rLawCode 0 i)).extractLsb' 0 32
theorem witness_verify : (withPkg [(rLawCode 0 0, 0x98000000)]).verifyLaw (lawCode (withPkg [(rLawCode 0 0, 0x98000000)])) none = .ok (1, 1) ∧
    s0.verifyLaw (lawCode s0) none = .error 4 := ⟨rfl, rfl⟩
theorem witness_loading : (withPkg [(rLawCode 0 0, 0x98000000)]).regBit (rLawStatus 0) 0 = false ∧
    (0x10001 : Word).toNat / 2 ^ 16 % 16 ≤ 1 ∧ (0x10001 : Word).getLsbD 3 = false ∧ (0x10001 : Word).toNat % 8 = 1 ∧
    (7 : Word).toNat % 8 ≠ 1 ∧ (withPkg [(rLawStatus 1, 1)]).regBit (rLawStatus 1) 0 = true ∧ (1 : Nat) ≠ 0 ∧
    s0.feature fLAWS = false ∧ (withLaws 0 none []).lawAt 1 ≠ none ∧ s0.lawAt 1 = none := by decide +kernel
def lawFive : Law := { lawOne with tenant := some 5 }
theorem witness_frameStart : (∀ a ∈ [LawAct.load 0 15 lawOne, .unload 0 1, .drop 1 31, .params 0 1 [7]],
      let s := withLaws 36000 (some 0) [a]
      s.g % 36000 = 0 ∧ 7 ≤ s.stage ∧ s.bin.snapped ≠ some s.g ∧ s.bin.acts = [a] ∧ s.lawAt 1 = some lawOne) ∧
    (withLaws 36000 (some 0) []).bin.acts = [] ∧ ((withLaws 36000 (some 0) []).part 31).stage ≠ 3 ∧ lawFive.tenant = some 5 ∧
    lawOne.tenant = none ∧ (15 : Nat) < 16 := by decide
/-- A system law in its slot, and a tenant's in the slice that its tenant holds, and outside it. -/
theorem witness_lawSlots : (let s := withLaws (9 * (64 + 128 * 1)) (some 0) []
     s.g % 36000 = 9 * (64 + 128 * 1) ∧ s.inFrame = true ∧ s.bin.run = none ∧ s.lawAt 1 = some lawOne ∧ 1 < 2) ∧
    (let s := { s0 with
        regs := [(rBootStage, 8), (rTenantMap 5, 0x8000001F00000007)]
        bin := { Bin.start with laws := [(2, lawFive)], snapHold := [(31, 6)] } }
     s.lawAt 2 = some lawFive ∧ Map.get 0 s.bin.snapHold (s.tenantPart 5) = 5 + 1) ∧
    Map.get 0 s0.bin.snapHold (s0.tenantPart 5) ≠ 5 + 1 := by decide
/-- A request of a system law, and one of a partition's law, for cluster 95, at the composition and the apply; the partition has
the clusters given, and the clock of a core on die 3 is 64 steps. -/
def sysAsk : Ask := ⟨1, none, none, 1, 95, 0x100000⟩
def partAsk (kind : Nat) : Ask := ⟨2, some 5, some 31, kind, 95, 0x100000⟩
def powerWitness (g : Nat) (kind cl : Nat) : State := { s0 with
  g := g
  regs := [(rBootStage, 8), (rPartClHi 31, 0x80000000), (rTenantMap 5, 0x8000001F00000007)]
  die := [(3, 2)]
  tier := { Tier.start with stack := [(16 * 1024 * (384 * 3 + 383), ⟨5, 3, 1023, 1023, 1, [1], 1, .clean⟩)], frames := [(3, home)] }
  bin := { Bin.start with
    laws := [(1, lawOne), (2, lawFive)]
    asks := [sysAsk, partAsk kind]
    snapCl := [(31, cl)]
    snapped := some 0
    droop := [3]
    gate := [(96 + 95, 1)] } }
theorem witness_power : (∀ g ∈ [9 * 2112, 9 * 2368], (powerWitness g 0 (2 ^ 95)).g % 36000 = g ∧ (powerWitness g 0 (2 ^ 95)).inFrame = true) ∧
    (powerWitness 0 0 (2 ^ 95)).standing (partAsk 0) = true ∧ (powerWitness 0 0 0).standing (partAsk 0) = false ∧
    (powerWitness 0 0 0).standing sysAsk = true ∧ (partAsk 0).part = some 31 ∧ (95 : Nat) < 96 ∧ (23 : Nat) < 24 ∧
    (powerWitness 0 0 0).partOfCluster 95 = some 31 ∧ (powerWitness 1 0 0).g % 36000 ≠ 9 * 2112 ∧ s0.inFrame = false ∧
    (let s := powerWitness 0 0 (2 ^ 95)
     ownAsk ((s.bin.asks.filter s.standing).map fun a => (a.part, a)) 31 0 95 = some 0x100000 ∧ 3 ∈ s.bin.droop) ∧
    (let s := powerWitness 0 0 0
     s.railEntries ((s.bin.asks.filter s.standing).map fun a => (a.part, a)) 23 ≠ []) := by decide +kernel
theorem witness_noRail : let s := { powerWitness 0 0 0 with bin := { (powerWitness 0 0 0).bin with gate := (List.range 96).map (·, 1) } }
    s.railEntries ((s.bin.asks.filter s.standing).map fun a => (a.part, a)) 23 = [] := by decide +kernel
/-- A cycle on which the droop suppresses the edge that a core of die 3 would have. -/
theorem witness_droop : dieOfCore 383 = 3 ∧ ∃ g, g * (powerWitness 0 0 0).clk (clusterOf 383) / 64 % 4 = Config.droopPhase % 4 :=
  ⟨by decide, Config.droopPhase, by
    show Config.droopPhase * 64 / 64 % 4 = _
    rw [Nat.mul_div_cancel _ (by decide)]⟩
theorem witness_sliceGroup : let s := powerWitness 0 0 0
    let k := 16 * 1024 * (384 * 3 + 383)
    let x : Gran := ⟨5, 3, 1023, 1023, 1, [1], 1, .clean⟩
    s.gate (96 + (24 * 3 + 23)) ≠ 0 ∧ s.tier.off.contains (24 * 3 + 23) = false ∧ s0.gate (96 + (24 * 3 + 23)) = 0 ∧
    s.tier.stack = [(k, x)] ∧ keySliceIdx k / 16 = 24 * 3 + 23 ∧ x.mark = .clean ∧ x.idx < 1024 ∧ (s.frame x.frame).hbm < hbmFrames ∧
    s.hbmMarkOf (s.frame x.frame).hbm x.idx = .clean := by decide +kernel
/- Package -/
def withStage (n : Word) : State := withPkg [(rPkgSpare, 0x0001000100010001)] |>.setReg rBootStage n
theorem witness_boot : (withStage 1).bootError = 0 ∧ (withStage 7).stage < 8 ∧ (1 : BitVec 8).toNat ∈ stageErrors (withStage 1).stage ∧
    (0 : BitVec 8).toNat ∉ stageErrors (withStage 1).stage ∧ (withStage 1).stage ≠ 2 ∧ (withStage 1).stage ≠ 5 ∧ (withStage 2).stage = 2 ∧
    (∃ i, i < 4 ∧ 2 ≤ (0x80 : BitVec 8).toNat / 4 ^ i % 4) ∧ (∀ i, i < 4 → (0x55 : BitVec 8).toNat / 4 ^ i % 4 < 2) ∧
    ((withStage 3).bootError = 0 ∧ (withStage 3).stage < 4) ∧ (withStage 0x500).bootError ∈ [1, 2, 5] ∧
    (∀ s ∈ [withStage 4, withStage 0x305], ¬(s.bootError = 0 ∧ s.stage < 4 ∨ s.bootError ∈ [1, 2, 5])) ∧
    (withStage 5).stage = 5 ∧ (withStage 5).fwHeader = [] ∧ ({ withStage 5 with fwHeader := [1] } : State).fwHeader ≠ [] := by decide
theorem witness_events : let s := { withStage 8 with
      fenced := [383], die := [(0, 2), (3, 2)], tier := { Tier.start with copying := [1535], frames := [(3, home)] }, retrain := [35] }
    s.fenced.contains 383 = true ∧ s.partOfCluster (383 / 4) = none ∧ 0 < s.spareCores (383 / 96) ∧
    s.tier.copying.contains (384 * 3 + 383) = true ∧ s.fenced.contains 0 = false ∧ s.crew? 0 = some (soloCrew 64) ∧
    (soloCrew 64).mode ≠ .saved ∧ (soloCrew 64).ending = none ∧ (∃ x ∈ (soloCrew 64).members, x / 4 = 0 ∧ (s.ctx x).crew = some 0) ∧
    3 ∈ s.tier.frames.map (·.1) ∧ (s.frame 3).placed = true ∧ s.retrain.contains 35 = true := by decide
theorem witness_kinds (f : Nat) : (s0.frame f).kind = 0 ∧ ∀ e ∈ s0.tier.frames, e.2.kind = 0 := ⟨rfl, fun _ h => by cases h⟩
theorem witness_open : s0.pfOpen 0x18 = true ∧ (withStage 7).pfOpen 0x18 = false := by decide +kernel
theorem witness_retirement : (let s := withPkg [(rFeatCommit, 1), (rFeatAcceptLo, 4)]
      let s := { s with die := [(0, 2), (3, 2)] }
      (0xD103 : Word).toNat / 2 ^ 8 % 2 ^ 8 = 0xD1 ∧ s.feature fRETIRE = true ∧ s.retiring = none ∧ s.dieState 3 = 2 ∧
        ∃ x, x < 4 ∧ x ≠ 3 ∧ s.dieState x = 2) ∧
    s0.feature fRETIRE = false ∧ ({ s0 with retiring := some (3, true) } : State).retiring = some (3, true) ∧
    (let s := withPkg [(rUalState, 0x0000100800000000)]
     s.portDown.contains 35 = false ∧ s.regBit rUalState 35 = true ∧ (s.laneUsed.contains (35 / 4) = false ∧ s.regBits rUalState 47 44 ≠ 0) ∧
       s0.regBits rUalState 47 44 = 0) := by decide
/- Host -/
theorem witness_host : s0.bootError = 0 ∧ 8 ≤ s0.stage ∧ (600 ≤ 950 ∧ 950 ≤ 950 ∧ 950 % 5 = 0) ∧ ¬(600 ≤ 599) ∧
    0x1000000 ≤ 0x1FFFFFF ∧ s0.fwBusy = false ∧ (0xFFFFFC % 8 ≠ 0) ∧ s0.vfOn < 1 ∧ s0.partClusters 0 = 0 ∧
    (∀ n ∈ [0, 2, 6], let s := { withPkg [(rPartClLo 31, 1)] with vfOn := 32, tdisp := [(32, n)] }
     1 ≤ 32 ∧ 32 ≤ s.vfOn ∧ s.partClusters (32 - 1) ≠ 0 ∧ (s.tdispState 32 % 4 = 2 ↔ n ≠ 0)) ∧
    s0.partFrozen 31 = false ∧ (0x100000000 : Word).getLsbD 63 = false ∧
    (∀ q, q < 32 → (s0.seqRange q).2 = 0) ∧ s0.seqsIn 31 1 ++ s0.seqsIn 31 2 = [] ∧ ¬(1 + 2 ^ 16 ≤ 65536) := by decide +kernel
theorem witness_tenants : (0x8000001F000FFFFF : Word).getLsbD 63 = true ∧ (0x8000001F000FFFFF : Word).getLsbD 62 = false ∧
    s0.tenantValid 63 = false ∧ s0.partFrozen 31 = false ∧ (∀ x, x < 64 → s0.tenantValid x = false) ∧
    (let s := withPkg [(rTenantMap 5, 0x8000001F00000007)]
     s.tenantValid 5 = true ∧ s.partFrozen (s.tenantPart 5) = false ∧ s.tenantHolds 5 = false ∧ lawFive.tenant = some 5 ∧
       ∃ x, x < 64 ∧ x ≠ 6 ∧ s.tenantValid x = true ∧ s.tenantPasid x = 7) ∧
    (dev 4096 home).tenantHolds 5 = true := by decide +kernel
theorem witness_firmware : s0.committed = false ∧ (withPkg [(rFeatCommit, 1)]).committed = true ∧ (0xF701 : Word).toNat / 2 ^ 8 % 2 ^ 8 = 0xF7 ∧
    (0xF702 : Word).getLsbD 1 = true ∧ (0 : Word).toNat / 2 ^ 8 % 2 ^ 8 ≠ 0xF7 ∧ ({ s0 with fwBusy := true } : State).fwBusy = true ∧
    (65535 : Nat) < 65536 ∧ (List.replicate 120 (some (0 : Byte))).length ≤ 120 ∧
    (∃ x ∈ List.replicate 120 (some (0 : Byte)), x ≠ none) ∧ s0.seqState 65535 ≠ 2 ∧ s0.seqHold 65535 = false ∧
    (s0.putBytes (seqKey (128 * 65535)) [2]).seqState 65535 = 2 ∧ (withStage 7).bootError = 0 ∧ (withStage 7).stage < 8 := by decide +kernel
/-- One Translation Request of function 32, outstanding or with its Page Request out. -/
def req (paging : Bool) : AtsReq := ⟨1, .core 0, 32, some 7, 3, .r, false, paging, false, false⟩
def asking (paging : Bool) : State := { s0 with ats := [req paging] }
theorem witness_ats : (∀ b, (asking b).ats.find? (·.id == 1) = some (req b) ∧ (asking b).ats = [req b] ∧ (req b).queued = false ∧
      (req b).stale = false ∧ (req b).shares = false ∧ (asking b).fnStopped (req b).fn = false ∧ (req b).paging = b) ∧ 12 ≤ 12 ∧ (req false).perm.ok true false = true ∧ (req false).perm.ok false true = false ∧
    s0.feature fPRI = false ∧ (let s := { withPkg [(rFeatCommit, 1), (rFeatAcceptLo, 1)] with pri := [(32, 2)] }
     s.feature fPRI = true ∧ Map.get 0 s.pri 32 ≠ 0 ∧ Map.get 0 s.priUsed 32 + 1 < Map.get 0 s.pri 32) ∧
    ({ s0 with inval := [⟨31, 32, []⟩] } : State).inval = [⟨31, 32, []⟩] ∧ s0.open' [] = [] ∧
    ({ withPosted [postedAt 0 none []] with inval := [⟨31, 32, [(1, 2)]⟩] } : State).open' [(1, 2)] ≠ [] ∧
    (let s := withPosted [postedAt 0 none []]
     ∃ p ∈ s.posted, p.hint = none ∧ (s.fnPasid p.owner).1 = 32 ∧ (s.fnPasid p.owner).2 = some 7 ∧
       p.addr.toNat % 2 ^ 57 < 0 + 4096 ∧ 0 < p.addr.toNat % 2 ^ 57 + p.bytes.length) ∧
    (let s := inFrame { home with hbm := 9437183 }
     (3 * 65536 + 64 : Nat) < 2 ^ 40 ∧ (3 * 65536 + 64) % 64 + 64 ≤ 64 ∧ (s.frame ((3 * 65536 + 64) / 65536)).state = .resident ∧
      s.tier.stack = [] ∧ s.tier.hbmMark = [] ∧ s.tier.vecMark = [] ∧ s.waits = []) ∧
    s0.bootError = 0 ∧ 8 ≤ s0.stage ∧ (withStage 7).bootError = 0 ∧ (withStage 7).stage < 8 ∧ (Requester.core 0).die ≠ 4 ∧ Requester.pilot.die = 4 ∧
    s0.waits = [] ∧ Map.get 0 s0.pri 32 = 0 := by decide
theorem witness_trust : (0 : Nat) ≤ s0.vfOn ∧ 8 ≤ s0.stage ∧
    (∀ n ∈ [0, 1, 2, 3], ({ s0 with spdm := [(0, ⟨n, false, false, 0⟩)] } : State).spdmOf 0 = ⟨n, false, false, 0⟩) ∧
    (({ s0 with spdm := [(0, ⟨3, true, true, 0⟩)] } : State).spdmOf 0).pending = true ∧
    (({ s0 with spdm := [(0, ⟨3, true, true, 0⟩)] } : State).spdmOf 0).session = true ∧ (68 : Nat) < 69 ∧
    ∀ n ∈ [0, 1, 2, 3, 4, 5, 6, 7], ({ s0 with vfOn := 32, tdisp := [(32, n)] } : State).tdispState 32 = n := by decide
/- Partitions and the Pilot -/
/-- Partition 31 of tenant 5, whose crew is of one member; its slice and registers as given. -/
def parted (r : PartRun) (f : Crew → Crew) (l : Map Word) : State :=
  let s := dev 4096 home
  let s := { s with regs := s.regs ++ (rSaveFrames 5, 100000) :: l }
  { s with pilot := { s.pilot with
      crews := [(0, f { soloCrew 64 with tenant := some 5, part := some 31 })]
      parts := [(31, r)] } }
theorem witness_service : s0.inService = true ∧ (withStage 7).bootError = 0 ∧ (withStage 7).stage < 8 ∧
    (∀ n ∈ [1, 2, 5, 6], ({ s0 with tdisp := [(32, n)] } : State).partFrozen 31 = true) ∧ (0x8000000103E80064 : Word).getLsbD 48 = false := by decide
theorem witness_partWrites : (31 : Nat) < 32 ∧ s0.partFrozen 31 = false ∧ (0x03E80064 : Word).getLsbD 48 = false ∧
    (0x03E80064 : Word).getLsbD 63 = false ∧ s0.partEnabled 31 = false ∧ 10 ≤ (0x000A0001 : Word).toNat / 2 ^ 16 % 2 ^ 16 ∧
    (0x000A0001 : Word).toNat % 2 ^ 16 ≠ 0 ∧ ¬(10 ≤ (0x00090001 : Word).toNat / 2 ^ 16 % 2 ^ 16) ∧
    (let s := { withPkg [(rPartClLo 0, 2), (rPartCtl 31, 0x103E80064)] with die := [(0, 2)] }
     (∃ c q, c < 64 ∧ (2 : Word).getLsbD c = true ∧ q < 32 ∧ q ≠ 31 ∧ s.partHas q c = true) ∧
     (∃ c, c < 64 ∧ (0x8000000000000000 : Word).getLsbD c = true ∧ s.dieState (c / 24) ≠ 2) ∧
     s.partEnabled 31 = true ∧ s.reg (rPartClLo 31) ≠ 1) := by
  refine ⟨?_, ?_, ?_, ?_, ?_, ?_, ?_, ?_, ⟨1, 0, ?_⟩, ⟨63, ?_⟩, ?_⟩ <;> decide +kernel
theorem witness_clear : (∀ c, c < 64 → (1 : Word).getLsbD c = true → ∀ q, q < 32 → ({ s0 with die := [(0, 2)] } : State).partHas q c = false) ∧
    ∀ c, c < 64 → (1 : Word).getLsbD c = true → ({ s0 with die := [(0, 2)] } : State).dieState (c / 24) = 2 := by decide +kernel
theorem witness_resetCrew : (parted .start id []).crew? 0 = some { soloCrew 64 with tenant := some 5, part := some 31 } ∧
    (soloCrew 64).ending = none := ⟨rfl, rfl⟩
/-- A saved crew is waiting work; before a set runs the policy is the standard one. -/
theorem witness_standard : Config.standardPolicy (parted .start id []).fwHeader = true := rfl
theorem witness_choice : (∃ u, (parted .start (fun cr => { cr with mode := .saved }) []).chooseTenant 31 none = (u, some 5)) ∧
    ∃ u, (parted .start id []).chooseTenant 31 (some 5) = (u, none) := ⟨⟨_, rfl⟩, _, rfl⟩
/-- Tenant 6 holds the slice, whose end is due, and tenant 5 has work; or none has. -/
theorem witness_slices : let s := parted ⟨some 0, 0, none, none, []⟩ (fun cr => { cr with mode := .saved }) [(rPartStat 31, 0x46)]
    (s.part 31).stage = 0 ∧ (s.part 31).ends = some 0 ∧ 0 ≤ s.timeNs ∧ s.curTenant 31 = some 6 ∧
    (parted .start id []).part 31 = .start ∧ (let s := parted .start (fun cr => { cr with mode := .draining, drainBy := 1 }) []
     ∀ e ∈ s.pilot.crews, e.2.part = some 31 → e.2.mode = .draining → e.2.isOver = false → s.timeNs < e.2.drainBy) := by decide
theorem witness_chosen : ∃ u, (parted ⟨some 0, 0, none, none, []⟩ (fun cr => { cr with mode := .saved }) [(rPartStat 31, 0x46)]).chooseTenant 31
    (some 6) = (u, some 5) := ⟨_, rfl⟩
/-- Tenant 5 holds the slice and alone has work. -/
theorem witness_renewal : let s := parted ⟨some 0, 0, none, none, []⟩ (fun cr => { cr with mode := .saved }) [(rPartStat 31, 0x45)]
    s.curTenant 31 = some 5 ∧ ∃ u, s.chooseTenant 31 (some 5) = (u, some 5) := ⟨rfl, _, rfl⟩
theorem witness_noWork : ∃ u, (parted ⟨some 0, 0, none, none, []⟩ id [(rPartStat 31, 0x46)]).chooseTenant 31 (some 6) = (u, none) := ⟨_, rfl⟩
def drainingCrew : Crew := { soloCrew 64 with tenant := some 5, part := some 31, mode := .draining }
def savingCrew : Crew := { drainingCrew with mode := .saving }
theorem witness_drain : let s := parted ⟨none, 1, none, some 6, []⟩ (fun cr => { cr with mode := .draining }) []
    drainingCrew.drainBy ≤ s.timeNs ∧ s.pilot.crews = [(0, drainingCrew)] ∧ drainingCrew.part = some 31 ∧
    drainingCrew.mode = .draining ∧ drainingCrew.isOver = false ∧ s.canSave 0 drainingCrew = true := by decide +kernel
theorem witness_save : let s := { parted ⟨none, 1, none, some 6, []⟩ (fun cr => { cr with mode := .saving }) [] with
      ctxs := [(0, { ctx0 with mode := .ready, halted := true })] }
    s.crew? 0 = some savingCrew ∧ savingCrew.mode = .saving ∧ savingCrew.ending = none ∧ savingCrew.isOver = false ∧
    s.saveReady 0 savingCrew = true ∧ s.canSave 0 savingCrew = true ∧ savingCrew.tenant = some 5 ∧ s.waits = [] ∧
    savingCrew.frames = [] := by decide +kernel
theorem witness_switch : let s := parted ⟨none, 1, none, some 6, []⟩ (fun cr => { cr with mode := .saved }) []
    (s.part 31).incoming = some 6 ∧ s.preempted 31 = true ∧ s.posted = [] ∧ s.waits = [] ∧
    ({ s with tier := { s.tier with swap := [(31, [3])] } } : State).swapOver 31 = true := by decide
theorem witness_pass : 7 ≤ s0.stage ∧ s0.bootError = 0 ∧ s0.tripped = false ∧ s0.committed = false ∧
    (∀ q, q < 32 → s0.partEnabled q = false) ∧ s0.tier.fetch = [] ∧ s0.pilot.records = [] ∧ s0.waits = [] := by decide +kernel
theorem witness_plans : (255 : Nat) < 256 ∧ (5 : Nat) < 6 ∧ s0.planValid 255 = false ∧
    (let s := withPkg [(rPlan 255 0, 0x8000000000000000)]
     s.planValid 255 = true ∧ s.plan 255 (0x30 + 8 * 5) ≠ 1 ∧ s.plan 255 (0x30 + 8 * 5) = 0) ∧
    (let s := withPkg [(rTenantMap 5, 0x8000001F00000007), (rPlan 255 8, 0xFFFFFFFF00000000)]
     let v : Word := 0x8000050104000001
     v.getLsbD 63 = true ∧ v.getLsbD 62 = false ∧ s.tenantValid (v.toNat / 2 ^ 40 % 64) = true ∧ v.toNat / 2 ^ 32 % 4 ≠ 0 ∧
     v.toNat / 2 ^ 16 % 2 ^ 11 ≠ 0 ∧ v.toNat / 2 ^ 16 % 2 ^ 11 ≤ 1024 ∧ v.toNat % 2 ^ 16 ≠ 0 ∧ s.planFrames 255 ≠ 0 ∧
     s.planFrames 255 < 2 ^ 32 ∧ s.planValid 255 = false ∧ s0.tenantValid (v.toNat / 2 ^ 40 % 64) = false) := by decide
/-- A step of plan 255 at kernel 0, whose one slot is record 65535: taken, prompt, or to take a token. -/
def stepping (st : Byte) (out : Nat) (took : Bool) : State :=
  let s := parted .start (fun cr => { cr with plan := some (255, 0) }) []
  { s with pilot := { s.pilot with steps := [(255, ⟨0, true, [⟨65535, out, took⟩], false⟩)] } }.putBytes (seqKey (128 * 65535)) [st]
theorem witness_tokens : (s0.crew? 0).bind (·.plan) = none ∧
    (∀ s ∈ [stepping 2 0xFFFFFFFF false, stepping 2 0 true, stepping 3 0 false, stepping 2 0 false],
      (s.crew? 0).bind (·.plan) = some (255, 0)) ∧
    (stepping 2 0 true).stepRun 255 = some ⟨0, true, [⟨65535, 0, true⟩], false⟩ ∧
    ([⟨65535, 0, true⟩] : List SeqSlot).find? (·.seq == 1) = none ∧
    ([⟨65535, 0, true⟩] : List SeqSlot).find? (·.seq == 65535) = some ⟨65535, 0, true⟩ ∧
    (stepping 3 0 false).seqState 65535 ≠ 2 ∧ (stepping 2 0 false).seqState 65535 = 2 ∧ (stepping 2 0 false).waits = [] := by decide +kernel
theorem witness_crewEnd : (soloCrew 64).isOver = false ∧
    (∀ e ∈ [none, some (0, 0), some (0xE7, 0xFFFF)], let cr := { soloCrew 64 with
        tenant := some 5, launch := some 511, retired := [0], ending := e }
      let s := withCrew fun _ => cr
      s.crew? 0 = some cr ∧ cr.isOver = true ∧ cr.tenant = some 5 ∧ cr.launch = some 511 ∧ s.launchNum 5 511 56 8 = 0) ∧
    (0 < 0xE7 ∧ 0xE7 < 256) := by decide +kernel
/- Frames -/
def moving (out : Bool) (st : FState) : Frame := { home with state := st, out := out, kind := 2, hbm := 9437183 }
theorem witness_moves : (∀ e ∈ [moving false .inFlight, moving true .inFlight, moving false .scrub], let s := inFrame e
      s.frame 3 = e ∧ Memory.wf s.mem = true ∧ e.kind = 2 ∧ e.hbm < hbmFrames ∧ s.tier.migs = [] ∧ s.tier.fetch = [] ∧ s.waits = [] ∧ s.hbmBad e.hbm = false) ∧
    (let s := inFrame (moving false .scrub)
     ({ s with tier := { s.tier with scrub := [3] } } : State).tier.scrub.head? = some 3) ∧
    (let s := inFrame (moving false .inFlight)
     (⟨0, 1, 0, 3, 8, 9⟩ : MigWait).frame = 3 ∧ (let m : MigSeen := ⟨1, 0, 9, [4], [(5, true)]⟩
       3 ∉ m.there ∧ 3 ∉ m.since.map (·.1)) ∧ s.regBits rUalState 35 0 = 0 ∧
     (withPkg [(rUalState, 0x800000000)]).regBits rUalState 35 0 ≠ 0) := by decide +kernel
/-- The FMAP commands on frame 3 of tenant 5: kinds 1 to 3, and a tenant that is not valid. -/
theorem witness_fmap : let s := inFrame home
    s.regBit rFmapStat 0 = false ∧ (withPkg [(rFmapStat, 1)]).regBit rFmapStat 0 = true ∧
    (0x0814000000000003 : Word).toNat / 2 ^ 59 % 4 = 1 ∧ (0x0814000000000003 : Word).toNat / 2 ^ 50 % 64 = 5 ∧
    (0x0814000000000003 : Word).toNat % 2 ^ 24 = 3 ∧ (s.frame 3).state ≠ .inFlight ∧ s.tier.fetch = [] ∧ s.tenantValid 5 = true ∧
    (s.frame 3).owner = 5 ∧ (s.frame 3).state ≠ .retired ∧ s.tier.stack = [] ∧ (inFrame (moving false .inFlight)).frame 3 = moving false .inFlight ∧
    (0x1814000000000003 : Word).toNat / 2 ^ 59 % 4 = 3 ∧ s.tenantValid 4 = false ∧ (0x1014000000000003 : Word).toNat / 2 ^ 59 % 4 = 2 ∧
    s.feature fPEER = false ∧ (0x6000000000000003 : Word).toNat / 2 ^ 61 = 3 ∧
    ({ s with tier := { s.tier with cmd := some (0x6000000000000003, 0) } } : State).tier.cmd = some (0x6000000000000003, 0) := by decide
theorem witness_locked : (∀ n ∈ [1, 2, 5, 6], let s := { withPkg [(rTenantMap 5, 0x8000001F00000007)] with tdisp := [(32, n)] }
      s.tenantValid 5 = true ∧ s.partFrozen (s.tenantPart 5) = true) ∧ s0.tenantValid 63 = false := by decide
theorem witness_ways : (63 : Nat) < 64 ∧ (∀ w ∈ s0.tier.ways, w.1 ≠ 63) ∧ s0.partFrozen 31 = false ∧ (3 : Nat) < 4 ∧
    (0x8000 : Word).getLsbD 63 = false ∧
    (∃ q w, q < 32 ∧ q ≠ 31 ∧ w < 16 ∧ (0x8000 : Word).getLsbD w = true ∧
      hasBit ((withPkg [(rStackSplit 0 3, 0x8000)]).regBits (rStackSplit q 3) 15 0) w = true) ∧
    (∃ w, w < 16 ∧ (0x8000 : Word).getLsbD w ≠ hasBit ((withPkg [(rStackWays 63, 0x8000000000000000)]).regBits (rStackSplit 31 3) 15 0) w ∧
      (0x8000 : Word).getLsbD w = true ∧ (withPkg [(rStackWays 63, 0x8000000000000000)]).wayNamed 3 w = true) ∧
    (∀ q, q < 32 → s0.regBits (rStackSplit q 3) 15 0 = 0) ∧
    (let s := withPkg [(rStackWays 63, 0x0001000100010001)]
     ∀ w, w < 16 → (0x8000 : Word).getLsbD w = true → s.wayInvalid 3 w = true ∧ s.wayNamed 3 w = false) := by
  refine ⟨?_, ?_, ?_, ?_, ?_, ⟨0, 15, ?_⟩, ⟨15, ?_⟩, ?_, ?_⟩ <;> decide +kernel
/- Events at a core -/
theorem witness_coreEvents :
    (withCtx fun c => { c with mode := .parked, parkOn := some (.page 0 .r), ev10 := true }).parkOver 0 = true ∧
    (withCtx fun c => { c with mode := .blocked, blockOn := some .queue }).blockOver 0 = true ∧
    (let s := withCtx fun c => { c with mode := .blocked, blockOn := some (.landing 8 true), wdog := 1, wcount := 1 }
     (s.ctx 0).mode = .blocked ∧ (s.ctx 0).wdog.toNat ≤ (s.ctx 0).wcount) ∧
    (∀ l ∈ [Leave.block .queue, .retire, .turn, .realign 9 1], let s := withCtx fun c => { c with leaving := some l }
      (s.ctx 0).mode = .holding ∧ (s.ctx 0).leaving ≠ none ∧ (s.ctx 0).quiet = true ∧ s.frozen (coreOf 0) = false) ∧
    (let s := { s0 with ctxs := [(0, { ctx0 with yielded := 64 }), (1, { ctx0 with mode := .ready })] }
     (s.ctx 0).mode = .holding ∧ (s.ctx 0).idle = 0 ∧ (s.ctx 0).realign = none ∧ (s.ctx 0).treturn = none ∧ 64 ≤ (s.ctx 0).yielded ∧
     s.otherReady 0 = true) ∧
    s0.eventDue 0 = false ∧ (withCtx fun c => { c with ev10 := true }).eventDue 0 = true ∧
    (let s := { withPkg [(rFeatCommit, 1), (rFeatAcceptLo, 0x20)] with ctxs := [(0, { ctx0 with ev11 := true, m11 := true, trapvec := 4 })] }
     s.eventDue 0 = true ∧ (s.ctx 0).ev10 = false ∧ s.feature fPOWER = true ∧ s.groupStart 0 4 = true) ∧
    (∀ e ∈ [none, some ⟨6, 1, 0⟩], let s := withCtx fun c => { c with mode := .blocked, blockOn := some .retiring, engErr := e }
      s.retireOver 0 = true ∧ (s.ctx 0).crew = some 0 ∧ s.crew? 0 = some (soloCrew 64)) ∧
    (s0.core (coreOf 0)).held.find? (·.id == 2) = none ∧ (withHeld.core (coreOf 0)).held.find? (·.id == 2) = some heldLoad ∧
    withHeld.replaced heldLoad = heldLoad ∧ withHeld.opReady heldLoad heldLoad.writes = false ∧
    (let h := { heldLoad with needs := [] }
     (withReady.core (coreOf 0)).held.find? (·.id == 2) = some h ∧ withReady.replaced h = h ∧ withReady.opReady h h.writes = true ∧
     h.acc.frame = none ∧ (withReady.performOp h).2 = .value 0) := by decide +kernel
/-- A held load of a frame that is its tenant's and RESIDENT. -/
theorem witness_heldFrame : let h : Held := { heldLoad with acc := ⟨64, 8, some 3, 3, 0⟩, needs := [] }
    let s : State := { inFrame home with cores := [(0, { Core.start with held := [h] })] }
    (s.core (coreOf 0)).held.find? (·.id == 2) = some h ∧ s.notOwned 3 (s.ownerOf 0) = false ∧ (s.frame 3).state = .resident ∧
    s.replaced h = h ∧ s.opReady h h.writes = true := by decide +kernel

end Sys2Proof.Tests
end

section
/-! SUPPORT. Fields of a word and of a register: what a field reads after it, or another one, has been written. -/

namespace Sys2Proof

theorem Word.testBit_bits (w : Word) (hi lo j : Nat) :
    (Word.bits w hi lo).testBit j = (decide (j < hi + 1 - lo) && w.getLsbD (lo + j)) := by
  simp [Word.bits, Nat.testBit_mod_two_pow, Nat.testBit_shiftRight, BitVec.getLsbD]

/-- A field that is written keeps what stands below and above it. -/
theorem Word.toNat_setBits (w : Word) {hi lo : Nat} (v : Nat) (hlo : lo ≤ hi) (hhi : hi < 64) :
    (Word.setBits w hi lo v).toNat =
      2 ^ lo * (2 ^ (hi + 1 - lo) * (w.toNat / 2 ^ (hi + 1)) + v % 2 ^ (hi + 1 - lo)) + w.toNat % 2 ^ lo := by
  have hp : 2 ^ (hi + 1) = 2 ^ lo * 2 ^ (hi + 1 - lo) := by rw [← Nat.pow_add]; congr 1; omega
  have htop : w.toNat / 2 ^ (hi + 1) + 1 ≤ 2 ^ (63 - hi) := by
    rw [Nat.succ_le_iff, Nat.div_lt_iff_lt_mul (Nat.two_pow_pos _), ← Nat.pow_add, show 63 - hi + (hi + 1) = 64 by omega]
    exact w.isLt
  have h64 : 2 ^ lo * (2 ^ (hi + 1 - lo) * 2 ^ (63 - hi)) = 2 ^ 64 := by
    rw [← Nat.mul_assoc, ← hp, ← Nat.pow_add]; congr 1; omega
  have hlow := Nat.div_add_mod w.toNat (2 ^ lo)
  have hhigh := Nat.div_add_mod (w.toNat / 2 ^ lo) (2 ^ (hi + 1 - lo))
  rw [Nat.div_div_eq_div_mul, ← hp] at hhigh
  have ha := Nat.mod_lt w.toNat (Nat.two_pow_pos lo)
  have hv := Nat.mod_lt v (Nat.two_pow_pos (hi + 1 - lo))
  simp only [Word.setBits, Nat.shiftRight_eq_div_pow, BitVec.toNat_ofNat]
  generalize w.toNat / 2 ^ (hi + 1) = c at *
  generalize w.toNat / 2 ^ lo % 2 ^ (hi + 1 - lo) = b at *
  generalize w.toNat % 2 ^ lo = a at *
  generalize v % 2 ^ (hi + 1 - lo) = x at *
  generalize 2 ^ (hi + 1 - lo) = m at *
  have hsum : w.toNat - b * 2 ^ lo + x * 2 ^ lo = 2 ^ lo * (m * c + x) + a := by
    rw [← hlow, ← hhigh, Nat.mul_add, Nat.mul_add, Nat.mul_comm b, Nat.mul_comm x]; omega
  rw [hsum, Nat.mod_eq_of_lt]
  calc 2 ^ lo * (m * c + x) + a < 2 ^ lo * (m * c + x + 1) := by rw [Nat.mul_add _ _ 1]; omega
    _ ≤ 2 ^ lo * (m * (c + 1)) := Nat.mul_le_mul_left _ (by rw [Nat.mul_add]; omega)
    _ ≤ 2 ^ lo * (m * 2 ^ (63 - hi)) := Nat.mul_le_mul_left _ (Nat.mul_le_mul_left _ htop)
    _ = 2 ^ 64 := h64

/-- Bit i after a field has been written: the field's own bit, or what it was. -/
theorem Word.getLsbD_setBits (w : Word) {hi lo : Nat} (v i : Nat) (hlo : lo ≤ hi) (hhi : hi < 64) :
    (Word.setBits w hi lo v).getLsbD i = if lo ≤ i ∧ i ≤ hi then v.testBit (i - lo) else w.getLsbD i := by
  have ha := Nat.mod_lt w.toNat (Nat.two_pow_pos lo)
  have hv := Nat.mod_lt v (Nat.two_pow_pos (hi + 1 - lo))
  simp only [BitVec.getLsbD, Word.toNat_setBits w v hlo hhi, Nat.testBit_two_pow_mul_add _ ha,
    Nat.testBit_two_pow_mul_add _ hv, Nat.testBit_mod_two_pow, Nat.testBit_div_two_pow]
  by_cases h1 : i < lo
  · simp [h1, show ¬ lo ≤ i by omega]
  · by_cases h2 : i ≤ hi
    · simp [h1, h2, show lo ≤ i by omega, show i - lo < hi + 1 - lo by omega]
    · simp [h1, h2, show ¬ i - lo < hi + 1 - lo by omega, show i - lo - (hi + 1 - lo) + (hi + 1) = i by omega]

theorem Word.bits_setBits_same (w : Word) {hi lo : Nat} (v : Nat) (hlo : lo ≤ hi) (hhi : hi < 64) :
    Word.bits (Word.setBits w hi lo v) hi lo = v % 2 ^ (hi + 1 - lo) := by
  refine Nat.eq_of_testBit_eq fun j => ?_
  rw [Word.testBit_bits, Word.getLsbD_setBits w v _ hlo hhi, Nat.testBit_mod_two_pow]
  by_cases hj : j < hi + 1 - lo
  · simp [hj, show lo + j ≤ hi by omega]
  · simp [hj]

theorem Word.bits_setBits_other (w : Word) {hi lo hi' lo' : Nat} (v : Nat) (hlo : lo' ≤ hi') (hhi : hi' < 64)
    (h : hi < lo' ∨ hi' < lo) : Word.bits (Word.setBits w hi' lo' v) hi lo = Word.bits w hi lo := by
  refine Nat.eq_of_testBit_eq fun j => ?_
  rw [Word.testBit_bits, Word.testBit_bits, Word.getLsbD_setBits w v _ hlo hhi]
  by_cases hj : j < hi + 1 - lo
  · simp [hj, show ¬ (lo' ≤ lo + j ∧ lo + j ≤ hi') by omega]
  · simp [hj]

namespace Machine

variable (s : State) {k j hi lo : Nat}

@[simp] theorem State.reg_setRegBits (k j hi lo v : Nat) :
    (s.setRegBits k hi lo v).reg j = if j = k then Word.setBits (s.reg k) hi lo v else s.reg j := State.reg_setReg _ _ _ _

theorem State.regBits_setRegBits_same (v : Nat) (hlo : lo ≤ hi) (hhi : hi < 64) :
    (s.setRegBits k hi lo v).regBits k hi lo = v % 2 ^ (hi + 1 - lo) := by
  simp [State.regBits, Word.bits_setBits_same _ v hlo hhi]

/-- A field of another register, or one that lies apart, is kept. -/
theorem State.regBits_setRegBits_other {hi' lo' : Nat} (v : Nat) (hlo : lo' ≤ hi') (hhi : hi' < 64)
    (h : j ≠ k ∨ hi < lo' ∨ hi' < lo) : (s.setRegBits k hi' lo' v).regBits j hi lo = s.regBits j hi lo := by
  simp only [State.regBits, State.reg_setRegBits]
  split
  · next hj => subst hj; exact Word.bits_setBits_other _ v hlo hhi (by simpa using h)
  · rfl

theorem State.regBit_setRegBits_other {i : Nat} (v : Nat) (hlo : lo ≤ hi) (hhi : hi < 64)
    (h : j ≠ k ∨ i < lo ∨ hi < i) : (s.setRegBits k hi lo v).regBit j i = s.regBit j i := by
  simp only [State.regBit, State.reg_setRegBits]
  split
  · next hj =>
    subst hj
    rw [Word.getLsbD_setBits _ v _ hlo hhi, if_neg (by simp at h; omega)]
  · rfl

theorem State.regBit_setRegBit_same {i : Nat} (b : Bool) (hi : i < 64) : (s.setRegBit k i b).regBit k i = b := by
  simp only [State.regBit, State.setRegBit, State.reg_setRegBits, if_true, Word.getLsbD_setBits _ _ _ (Nat.le_refl i) hi]
  cases b <;> simp

/-- Fields depend on the registers alone. -/
theorem State.regBits_congr {s t : State} (h : t.regs = s.regs) (k hi lo : Nat) : t.regBits k hi lo = s.regBits k hi lo := by
  simp only [State.regBits, State.reg, h]
theorem State.regBit_congr {s t : State} (h : t.regs = s.regs) (k i : Nat) : t.regBit k i = s.regBit k i := by
  simp only [State.regBit, State.reg, h]

end Machine
end Sys2Proof
end

section
/-! PROOF. What a cold reset leaves (R5, R24, R25), and that a trip stops every clock (R12). -/

namespace Sys2Proof.Machine

/-- A register that has not been written since reset reads its Reset column (R5). -/
theorem State.reg_reset (k : Nat) : State.reset.reg k = regReset k := rfl

/-- The Reset columns that are not zero, by offset. -/
theorem regReset_eq (k : Nat) : regReset k =
    if k = 0x20A8 then 800
    else if k = 0x28000 then 0x06060606
    else if k = 0x10000 then BitVec.ofNat 64 (10000 * 2 ^ 32 + 2000)
    else if 0x20000 ≤ k ∧ k < 0x22000 ∧ k % 0x100 = 0x10 then BitVec.ofNat 64 (1000 * 2 ^ 16 + 100)
    else if 0x24000 ≤ k ∧ k < 0x24400 ∧ k % 16 = 0 then 0x7FFFFFFFFFFFFFFF
    else if 0x11000 ≤ k ∧ k < 0x11400 ∧ k % 16 = 0 then BitVec.ofNat 64 (90 * 2 ^ 32 + 100000)
    else 0 := by
  simp only [regReset, rRailDflt, rAcctRate, rPilotCtl, Bool.and_eq_true, decide_eq_true_eq, beq_iff_eq, and_assoc]

theorem regReset_rAcctBal {t : Nat} (h : t < 64) : regReset (rAcctBal t) = 0x7FFFFFFFFFFFFFFF := by
  rw [regReset_eq, rAcctBal, if_neg (by omega), if_neg (by omega), if_neg (by omega), if_neg (by omega), if_pos (by omega)]

theorem regReset_rTenSched {t : Nat} (h : t < 64) : regReset (rTenSched t) = BitVec.ofNat 64 (90 * 2 ^ 32 + 100000) := by
  rw [regReset_eq, rTenSched, if_neg (by omega), if_neg (by omega), if_neg (by omega), if_neg (by omega), if_neg (by omega),
    if_pos (by omega)]

theorem regReset_rTenantMap {t : Nat} (h : t < 64) : regReset (rTenantMap t) = 0 := by
  rw [regReset_eq, rTenantMap, if_neg (by omega), if_neg (by omega), if_neg (by omega), if_neg (by omega), if_neg (by omega),
    if_neg (by omega)]

theorem regReset_rPartCtl {p : Nat} (h : p < 32) : regReset (rPartCtl p) = BitVec.ofNat 64 (1000 * 2 ^ 16 + 100) := by
  rw [regReset_eq, rPartCtl, rPart, if_neg (by omega), if_neg (by omega), if_neg (by omega), if_pos (by omega)]

/-- Settles O7: each register by its Reset column, every map of the state by its being empty. -/
theorem resetState : Obligations.ResetState := by
  refine ⟨trivial, rfl, rfl, by decide, rfl, by decide, by decide, by decide, by decide, fun t ht => ?_, fun p hp => ?_,
    fun _ => rfl, rfl, fun _ => rfl, fun _ => ⟨rfl, rfl, rfl, rfl⟩⟩
  · simp only [State.regBits, State.reg_reset, regReset_rAcctBal ht, regReset_rTenSched ht, regReset_rTenantMap ht]
    decide
  · simp only [State.partEnabled, State.regBit, State.regBits, State.reg_reset, regReset_rPartCtl hp]
    decide

variable (s : State)

/-- The choice of the next mover leaves every core's part of the cycle, and a trip, as they are. -/
theorem State.resched_keeps : s.resched.todo = s.todo ∧ s.resched.tripped = s.tripped := by
  have hboot : s.bootOn.todo = s.todo ∧ s.bootOn.tripped = s.tripped := by
    unfold State.bootOn; split <;> exact ⟨rfl, rfl⟩
  have hpick (t : State) : t.pick.todo = t.todo ∧ t.pick.tripped = t.tripped := by
    unfold State.pick
    split
    · exact ⟨rfl, rfl⟩
    · split <;> exact ⟨rfl, rfl⟩
  rw [← hboot.1, ← hboot.2]
  simp only [State.resched]
  split
  · exact ⟨rfl, rfl⟩
  · split
    · split
      · exact ⟨rfl, rfl⟩
      · exact hpick _
    · exact hpick _

/-- No core has an edge after a trip, so none is due in the next cycle. -/
theorem State.coresDue_tripped (h : s.tripped = true) : s.coresDue = [] := by
  simp [State.coresDue, State.edge, h]

/-- Settles O8: the trip stands in the state, and every edge asks for its absence. -/
theorem tripStopsTheClocks : Obligations.TripStopsTheClocks := by
  intro s die _
  refine ⟨⟨_, rfl, ?_⟩, fun htrip hwait => ⟨_, step_wait s hwait, ?_, ?_⟩⟩
  · split
    · assumption
    · rfl
  · rw [(State.resched_keeps _).2]; exact htrip
  · rw [(State.resched_keeps _).1]; exact State.coresDue_tripped { s with g := s.g + 1 } htrip

end Sys2Proof.Machine
end

section
/-! SUPPORT. What the end of a crew and the charges of its commands touch (R120, R178), and what they leave. -/

namespace Sys2Proof.Machine

/-- `t` is `s` but for contexts, cores, crews, accounts, collectives, posted stores and migrations; the registers below the
Pilot's block are kept, since accounts lie above it. -/
structure CrewWork (s t : State) : Prop where
  rest : t = { s with ctxs := t.ctxs, cores := t.cores, regs := t.regs, pilot := t.pilot, colls := t.colls, owed := t.owed,
                      posted := t.posted, tier := { s.tier with migs := t.tier.migs, migSeen := t.tier.migSeen } }
  low : ∀ k, k < 0x10000 → t.reg k = s.reg k

variable {s t u : State}

theorem CrewWork.refl (s : State) : CrewWork s s := ⟨rfl, fun _ _ => rfl⟩
theorem CrewWork.trans (h : CrewWork s t) (h' : CrewWork t u) : CrewWork s u :=
  ⟨by rw [h'.rest, h.rest], fun k hk => (h'.low k hk).trans (h.low k hk)⟩

theorem CrewWork.mem (h : CrewWork s t) : t.mem = s.mem := by rw [h.rest]
theorem CrewWork.frames (h : CrewWork s t) : t.tier.frames = s.tier.frames := by rw [h.rest]
theorem CrewWork.repairs (h : CrewWork s t) : t.repairs = s.repairs := by rw [h.rest]
theorem CrewWork.fenced (h : CrewWork s t) : t.fenced = s.fenced := by rw [h.rest]

/-- A write of a register at or above the Pilot's block. -/
theorem CrewWork.setReg (s : State) {k : Nat} (v : Word) (hk : 0x10000 ≤ k) : CrewWork s (s.setReg k v) :=
  ⟨rfl, fun j hj => by simp [show j ≠ k by omega]⟩
theorem CrewWork.pilot (s : State) (p : Pilot) : CrewWork s { s with pilot := p } := ⟨rfl, fun _ _ => rfl⟩

/- Charges -/
theorem CrewWork.addBalance (s : State) (n : Nat) (v : Int) : CrewWork s (s.addBalance n v) := by
  have h := CrewWork.setReg s (k := rAcctBal n) (sat64 ((s.reg (rAcctBal n)).toInt + v)) (by simp only [rAcctBal]; omega)
  unfold State.addBalance
  dsimp only
  split <;> exact h.trans (CrewWork.pilot _ _)
theorem CrewWork.charge (s : State) (n units : Nat) : CrewWork s (s.charge n units) := by
  have h := CrewWork.addBalance s n (-(units : Int))
  unfold State.charge
  dsimp only
  split
  · exact .refl s
  · split
    · exact h.trans (CrewWork.setReg _ _ (by simp only [rTenDef]; omega))
    · exact h
theorem CrewWork.chargeRest (s : State) (n tier b paid : Nat) (rates : List Nat) :
    CrewWork s (s.chargeRest n tier b paid rates) := (CrewWork.pilot s _).trans (CrewWork.charge _ _ _)
theorem CrewWork.settle (s : State) (e : Entry) (ends : Bool) : CrewWork s (s.settle e ends).1 := by
  unfold State.settle
  cases e.owing with
  | none => exact .refl s
  | some o =>
    dsimp only
    split <;> cases s.payer e
    · exact .refl s
    · exact .chargeRest s _ _ _ _ _
    · exact .refl s
    · exact .charge s _ _
theorem CrewWork.payOwed (s : State) (id : Nat) : CrewWork s (s.payOwed id) := by
  have h := List.foldlRecOn (motive := CrewWork s)
    (s.owed.filter (·.crew == id) ++ ((s.crew? id).map (·.savedQ)).getD []) (fun s e => (s.settle e true).1) (.refl s)
    fun t ht e _ => ht.trans (.settle t e true)
  exact h.trans ⟨rfl, fun _ _ => rfl⟩

/- The end of a crew -/
theorem CrewWork.idleCtx (s : State) (cx : Nat) : CrewWork s (s.idleCtx cx) := ⟨rfl, fun _ _ => rfl⟩
/-- The contexts of an ended crew fall idle. -/
theorem CrewWork.idleAll (s : State) (id : Nat) (members : List Nat) :
    CrewWork s (members.foldl (fun s cx => if (s.ctx cx).crew = some id then s.idleCtx cx else s) s) := by
  refine List.foldlRecOn (motive := CrewWork s) _ _ (.refl s) fun t ht cx _ => ?_
  split
  · exact ht.trans (.idleCtx t cx)
  · exact ht
theorem CrewWork.failCrew (s : State) (id reason core : Nat) : CrewWork s (s.failCrew id reason core) := by
  unfold State.failCrew
  split
  · exact .refl s
  · next cr _ =>
    split
    · exact .refl s
    · have h : CrewWork s { s.setCrew id { cr with ending := some (reason, core), tag := none } with
          colls := s.colls.filter (·.crew != id) } := ⟨rfl, fun _ _ => rfl⟩
      exact h.trans (.idleAll _ _ _)

/- The crews after one has ended -/
theorem Map.find?_put {α : Type} (m : Map α) (a b : Nat) (x : α) :
    ((Map.put m a x).find? (·.1 == b)).map (·.2) = if b = a then some x else (m.find? (·.1 == b)).map (·.2) := by
  rcases Decidable.em (b = a) with rfl | h
  · induction m with
    | nil => simp [Map.put]
    | cons e m ih =>
      simp only [Map.put]
      split
      · simp
      · next hk =>
        split
        · simp
        · simpa [Ne.symm hk] using ih
  · have hsymm : ¬a = b := fun e => h e.symm
    induction m with
    | nil => simp [Map.put, h, hsymm]
    | cons e m ih =>
      simp only [if_neg h] at ih ⊢
      simp only [Map.put]
      split
      · next hk => simp [hsymm, ← hk]
      · split
        · simp [List.find?_cons, hsymm]
        · simp only [List.find?_cons]
          split
          · rfl
          · exact ih

@[simp] theorem State.crew?_setCrew (s : State) (id x : Nat) (c : Crew) :
    (s.setCrew id c).crew? x = if x = id then some c else s.crew? x := Map.find?_put _ _ _ _

theorem State.crew?_congr {s t : State} (h : t.pilot = s.pilot) (x : Nat) : t.crew? x = s.crew? x := by simp [State.crew?, h]
theorem State.idleAll_pilot (s : State) (id : Nat) (members : List Nat) :
    (members.foldl (fun s cx => if (s.ctx cx).crew = some id then s.idleCtx cx else s) s).pilot = s.pilot := by
  refine List.foldlRecOn (motive := fun t : State => t.pilot = s.pilot) _ _ rfl fun t ht cx _ => ?_
  split <;> exact ht

/-- Another crew does not change when one ends. -/
theorem State.crew?_failCrew_other (s : State) {id x : Nat} (reason core : Nat) (h : x ≠ id) :
    (s.failCrew id reason core).crew? x = s.crew? x := by
  unfold State.failCrew
  split
  · rfl
  · split
    · rfl
    · exact (State.crew?_congr (State.idleAll_pilot _ _ _) x).trans ((State.crew?_setCrew s id x _).trans (if_neg h))
/-- A crew that is not ending takes the reason it is given. -/
theorem State.crew?_failCrew_same (s : State) {id : Nat} (reason core : Nat) {cr : Crew} (hcr : s.crew? id = some cr)
    (he : cr.ending = none) :
    (s.failCrew id reason core).crew? id = some { cr with ending := some (reason, core), tag := none } := by
  unfold State.failCrew
  simp only [hcr, he, Option.isSome_none, Bool.false_eq_true, if_false]
  exact (State.crew?_congr (State.idleAll_pilot _ _ _) id).trans ((State.crew?_setCrew s id id _).trans (if_pos rfl))
/-- A crew that is ending keeps its reason. -/
theorem State.failCrew_ending (s : State) {id : Nat} (reason core : Nat) {cr : Crew} (hcr : s.crew? id = some cr)
    (he : cr.ending.isSome = true) : s.failCrew id reason core = s := by
  unfold State.failCrew
  simp only [hcr, he, if_true]

end Sys2Proof.Machine
end

section
/-! SUPPORT. What Scarab's work touches (07_memory_tiers.md): the registers below the Pilot's block, the dies, the repairs
and what an act lacks are kept, and a frame without a backing copy gets none. -/

namespace Sys2Proof.Machine

/-- A frame that no move or retirement writes to a backing copy: it has none, or it is RETIRED. -/
def Frame.NoBacking (e : Frame) : Prop := e.kind = 0 ∨ e.state = .retired

/-- `t` is `s` but for memory, contexts, cores, crews, tiers and what goes out; the registers below the Pilot's block are kept,
and no frame takes on a backing copy. -/
structure TierWork (s t : State) : Prop where
  rest : t = { s with mem := t.mem, ctxs := t.ctxs, cores := t.cores, regs := t.regs, waits := t.waits, outbox := t.outbox,
                      tier := t.tier, pilot := t.pilot, posted := t.posted, colls := t.colls, owed := t.owed, fresh := t.fresh,
                      agenda := t.agenda }
  low : ∀ k, k < 0x10000 → t.reg k = s.reg k
  bare : ∀ f, (s.frame f).NoBacking → (t.frame f).NoBacking

variable {s t u : State}

theorem TierWork.refl (s : State) : TierWork s s := ⟨rfl, fun _ _ => rfl, fun _ h => h⟩
theorem TierWork.trans (h : TierWork s t) (h' : TierWork t u) : TierWork s u :=
  ⟨by rw [h'.rest, h.rest], fun k hk => (h'.low k hk).trans (h.low k hk), fun f hf => h'.bare f (h.bare f hf)⟩
theorem CrewWork.tierWork (h : CrewWork s t) : TierWork s t :=
  ⟨by rw [h.rest], h.low, fun f hf => by rw [State.frame, h.frames]; exact hf⟩

theorem TierWork.die (h : TierWork s t) : t.die = s.die := by rw [h.rest]
theorem TierWork.wants (h : TierWork s t) : t.wants = s.wants := by rw [h.rest]
theorem TierWork.retiring (h : TierWork s t) : t.retiring = s.retiring := by rw [h.rest]
theorem TierWork.retrain (h : TierWork s t) : t.retrain = s.retrain := by rw [h.rest]

theorem TierWork.foldl {α : Type} {f : State → α → State} (h : ∀ s a, TierWork s (f s a)) (l : List α) (s : State) :
    TierWork s (l.foldl f s) :=
  List.foldlRecOn l f (.refl s) fun t ht a _ => ht.trans (h t a)

/- The state's own operations -/
theorem TierWork.modTier (s : State) (f : Tier → Tier) (h : (f s.tier).frames = s.tier.frames) : TierWork s (s.modTier f) :=
  ⟨rfl, fun _ _ => rfl, fun x hx => by rw [State.frame, State.modTier, h]; exact hx⟩
theorem TierWork.setFrame (h : TierWork s t) (f : Nat) {e : Frame} (he : (s.frame f).NoBacking → e.NoBacking) :
    TierWork s (t.setFrame f e) := by
  refine ⟨by rw [h.rest]; rfl, h.low, fun x hx => ?_⟩
  rw [State.frame_setFrame]
  split
  · next hxf => subst hxf; exact he hx
  · exact h.bare x hx
theorem TierWork.dropGrans (s : State) (p : Nat → Gran → Bool) : TierWork s (s.dropGrans p) := .modTier s _ rfl
theorem TierWork.setGran (s : State) (k : Nat) (x : Gran) : TierWork s (s.setGran k x) := .modTier s _ rfl
theorem TierWork.setHbmMark (s : State) (h i : Nat) (m : Mark) : TierWork s (s.setHbmMark h i m) := .modTier s _ rfl
theorem TierWork.useHbm (s : State) (h : Nat) (b : Bool) : TierWork s (s.useHbm h b) := .modTier s _ rfl
theorem TierWork.setVecMark (s : State) (m : Map Nat) : TierWork s { s with tier := { s.tier with vecMark := m } } :=
  .modTier s (fun t => { t with vecMark := m }) rfl
theorem TierWork.setMem (s : State) (m : List Host.Cell) : TierWork s { s with mem := m } := ⟨rfl, fun _ _ => rfl, fun _ h => h⟩
theorem TierWork.laterBy (s : State) (n : Nat) (i : Instr) : TierWork s (s.laterBy n i) := ⟨rfl, fun _ _ => rfl, fun _ h => h⟩
theorem TierWork.later (s : State) (i : Instr) : TierWork s (s.later i) := .laterBy s 0 i
theorem TierWork.send (s : State) (o : Out) : TierWork s (s.send o) := ⟨rfl, fun _ _ => rfl, fun _ h => h⟩
theorem TierWork.bump (s : State) {k : Nat} (hi lo n : Nat) (hk : 0x10000 ≤ k) : TierWork s (s.bump k hi lo n) :=
  (CrewWork.setReg s _ hk).tierWork
/-- A count of MT_ERR. -/
theorem TierWork.bumpMtErr (s : State) (d hi lo : Nat) : TierWork s (s.bump (rMtErr d) hi lo) :=
  .bump s hi lo 1 (by simp only [rMtErr]; omega)
theorem TierWork.putMasked (s : State) (key : Nat) (bs : List Byte) (mask : Nat) : TierWork s (s.putMasked key bs mask) := by
  refine .foldl (fun s j => ?_) _ s
  split
  · exact .setMem s _
  · exact .refl s
theorem TierWork.endTenant (s : State) (n core : Nat) : TierWork s (s.endTenant n core) :=
  .foldl (fun s (e : Nat × Crew) => (CrewWork.failCrew s e.1 0x0A core).tierWork)
    (s.pilot.crews.filter fun e => e.2.tenant == some n) s
theorem TierWork.eachGran {act : State → Nat → Gran → State} (h : ∀ s k x, TierWork s (act s k x)) (s : State)
    (p : Nat → Gran → Bool) : TierWork s (s.eachGran p act) := by
  refine .foldl (fun s e => ?_) _ s
  split
  · exact h s _ _
  · exact .refl s

/- Errors and write-backs (R170 to R172, R395, R396), for any way to retire a frame that is itself tier work -/
section
variable {ret : State → Nat → Option Nat → Nat → State} (hret : ∀ s f k core, TierWork s (ret s f k core)) (s : State)
include hret

theorem TierWork.loseGran (k : Nat) (x : Gran) (core : Nat) : TierWork s (s.loseGran ret k x core) :=
  ((TierWork.bumpMtErr s _ _ _).trans (.endTenant _ _ _)).trans (hret _ _ _ _)
theorem TierWork.intoGran (k : Nat) (x : Gran) (bs : List Byte) (mask core : Nat) (d : Bool) :
    TierWork s (s.intoGran ret k x bs mask core d).1 := by
  unfold State.intoGran
  dsimp only
  split
  · split
    · exact .loseGran hret s k x core
    · dsimp only
      exact (TierWork.bumpMtErr s _ _ _).trans (.dropGrans _ _)
  · split
    · exact .refl s
    · split
      · exact (TierWork.bumpMtErr s _ _ _).trans (.setGran _ _ _)
      · exact .setGran _ _ _
theorem TierWork.intoHbm (f i : Nat) (bs : List Byte) (mask core : Nat) : TierWork s (s.intoHbm ret f i bs mask core).1 := by
  unfold State.intoHbm
  dsimp only
  split
  · exact .refl s
  · split
    · exact (TierWork.setHbmMark s _ _ _).trans (hret _ _ _ _)
    · exact (TierWork.putMasked s _ _ _).trans (.setHbmMark _ _ _ _)
theorem TierWork.tagErrorR (k : Nat) (x : Gran) (core : Nat) : TierWork s (s.tagErrorR ret k x core) := by
  unfold State.tagErrorR
  dsimp only
  have h := TierWork.bumpMtErr s (keyDie k) 47 32
  split
  · exact h.trans (.dropGrans _ _)
  · exact (h.trans (.foldl (fun s n => .endTenant s n core) _ _)).trans (hret _ _ _ _)
theorem TierWork.vectorErrorR (set core : Nat) : TierWork s (s.vectorErrorR ret set core) :=
  (TierWork.setVecMark s _).trans (.eachGran (fun s k x => .tagErrorR hret s k x core) _ _)
theorem TierWork.toHomeR (skip : Option Nat) (f i : Nat) (bs : List Byte) (mask : Nat) (poison : Bool) (core : Nat) :
    TierWork s (s.toHomeR ret skip f i bs mask poison core).1 := by
  unfold State.toHomeR
  extract_lets copy
  -- the home stack's copy, if there is one
  have hcopy : TierWork s copy.1 := by
    dsimp only [copy]
    split
    · exact .refl s
    · split
      · exact .refl s
      · split
        · exact .tagErrorR hret s _ _ core
        · split
          · exact .setGran s _ _
          · exact .intoGran hret s _ _ bs mask core false
  split
  · exact hcopy
  · split
    · exact (hcopy.trans (.putMasked _ _ _ _)).trans (.setHbmMark _ _ _ _)
    · exact hcopy.trans (.intoHbm hret _ f i bs mask core)
theorem TierWork.sendHomeR (k : Nat) (x : Gran) : TierWork s (s.sendHomeR ret k x) := by
  have h := TierWork.toHomeR hret s (some k) x.frame x.idx x.bytes x.dirty.toNat x.mark.poison 0xFFFF
  unfold State.sendHomeR
  split
  · next heq => rw [heq] at h; exact h
  · next heq => rw [heq] at h; exact h.trans (.setGran _ _ _)
theorem TierWork.writeBackR (k : Nat) (x : Gran) : TierWork s (s.writeBackR ret k x) := by
  unfold State.writeBackR
  split
  · exact .refl s
  · split
    · exact .vectorErrorR hret s _ _
    · split
      · exact .tagErrorR hret s k x _
      · split
        · exact .loseGran hret s k x _
        · split
          · exact (TierWork.bumpMtErr s _ _ _).trans (.sendHomeR hret _ _ _)
          · exact .sendHomeR hret s k x
theorem TierWork.quarantineR (k : Nat) : TierWork s (s.quarantineR ret k) := by
  unfold State.quarantineR
  extract_lets sl w old heads mine new s1 s2 d s3 count under
  split
  · exact .refl s
  · have h1 : TierWork s s1 := .modTier s _ rfl
    have h2 : TierWork s1 s2 := (TierWork.eachGran (fun s k x => .writeBackR hret s k x) s1 mine).trans (.dropGrans _ _)
    have h3 : TierWork s s3 := (h1.trans h2).trans (.bumpMtErr s2 d 63 48)
    split
    · exact (h3.trans (.modTier _ _ rfl)).trans (.later _ _)
    · exact h3
end

theorem TierWork.releaseHbm (s : State) (h : Nat) : TierWork s (s.releaseHbm h) :=
  ((TierWork.setMem s _).trans (.modTier _ _ rfl)).trans (.useHbm _ _ _)
/-- A frame that an error retires takes on no backing copy, however far the errors that follow reach (R396). -/
theorem TierWork.retireBy (n : Nat) (s : State) (f : Nat) (k : Option Nat) (core : Nat) :
    TierWork s (State.retireBy n s f k core) := by
  induction n generalizing s f k core with
  | zero => exact (TierWork.dropGrans s _).setFrame f fun _ => .inr rfl
  | succ n ih =>
    cases k with
    | some k => exact (((TierWork.dropGrans s _).setFrame f fun _ => .inr rfl).trans (.releaseHbm _ _)).trans (.quarantineR ih _ k)
    | none =>
      exact ((TierWork.eachGran (fun s k x => .writeBackR ih s k x) s _).trans (.dropGrans _ _)).setFrame f fun _ => .inr rfl
theorem TierWork.retireFrame (s : State) (f : Nat) (k : Option Nat) (core : Nat) : TierWork s (s.retireFrame f k core) :=
  .retireBy _ s f k core
theorem TierWork.writeBackAll (s : State) (p : Nat → Gran → Bool) : TierWork s (s.writeBackAll p) :=
  .eachGran (fun s k x => .writeBackR TierWork.retireFrame s k x) s p
theorem TierWork.flushFrame (s : State) (f : Nat) (drop : Bool) : TierWork s (s.flushFrame f drop) := by
  unfold State.flushFrame
  dsimp only
  split
  · exact (TierWork.writeBackAll s _).trans (.dropGrans _ _)
  · exact .writeBackAll s _

end Sys2Proof.Machine
end

section
/-! SUPPORT. Fetches, evictions, moves and migrations as tier work (R162 to R168), and the end of a crew that is discarded. -/

namespace Sys2Proof.Machine

variable {s t : State}

theorem CrewWork.modCtx (s : State) (cx : Nat) (f : Ctx → Ctx) : CrewWork s (s.modCtx cx f) := ⟨rfl, fun _ _ => rfl⟩

/- Crews -/
theorem TierWork.discardCrew (s : State) (id : Nat) : TierWork s (s.discardCrew id) := by
  unfold State.discardCrew
  split
  · exact .refl s
  · have h : TierWork s (((s.failCrew id 0 0xFFFF).payOwed id).delCrew id) :=
      (((CrewWork.failCrew s id 0 0xFFFF).trans (.payOwed _ id)).trans (.pilot _ _)).tierWork
    dsimp only
    split
    · exact h.trans (.setMem _ _)
    · exact h

/- Memory -/
theorem TierWork.copyRange (s : State) (src dst n : Nat) : TierWork s (s.copyRange src dst n) := .setMem s _
theorem TierWork.zeroRange (s : State) (a n : Nat) : TierWork s (s.zeroRange a n) := .setMem s _
theorem TierWork.freeHbm (s : State) (h : Nat) : TierWork s (s.freeHbm h) :=
  ((TierWork.zeroRange s _ _).trans (.modTier _ _ rfl)).trans (.useHbm _ _ _)
theorem TierWork.clearScratch (s : State) (d w : Nat) : TierWork s (s.clearScratch d w) := by
  unfold State.clearScratch
  exact (TierWork.zeroRange s _ _).trans (.modTier _ _ rfl)

/- Migrations that count a frame (R168) -/
theorem TierWork.putAb (s : State) (core a : Nat) (bs : List Byte) : TierWork s (s.putAb core a bs) := by
  refine (TierWork.setMem s _).trans (.foldl (fun s cx => ?_) _ _)
  split
  · exact .refl s
  · exact (CrewWork.modCtx s cx _).tierWork
theorem TierWork.countOne (s : State) (w : MigWait) (late : Bool) : TierWork s (s.countOne w late) := by
  have h : TierWork s (s.arrival w.core w.lobj 65536) := .putAb s _ _ _
  unfold State.countOne
  dsimp only
  split
  · have h' := h.trans (CrewWork.modCtx (s.arrival w.core w.lobj 65536) w.cx fun c => { c with slip := c.slip + 1 }).tierWork
    split
    · exact h'.trans (.bump _ 31 0 1 (by simp only [rSlip]; omega))
    · exact h'
  · exact h
theorem TierWork.countMig (s : State) (f : Nat) (slip : Bool) : TierWork s (s.countMig f slip) :=
  (TierWork.modTier s _ rfl).trans (.foldl (fun s w => .countOne s w _) _ _)

/- Fetches (R163 to R166) -/
theorem TierWork.findHbm (s : State) : TierWork s s.findHbm.1 := by
  unfold State.findHbm
  split
  · exact .refl s
  · split
    · exact .refl s
    · next v _ =>
      have h := TierWork.flushFrame s v true
      dsimp only
      split
      · exact h
      · next hres =>
        have hstate : ((s.flushFrame v true).frame v).state = .resident := by simpa using hres
        -- a RESIDENT frame without a backing copy has kind 0, which its eviction keeps
        have hkind : ((s.flushFrame v true).frame v).NoBacking → ((s.flushFrame v true).frame v).kind = 0 := by
          rintro (h0 | h0)
          · exact h0
          · rw [hstate] at h0; cases h0
        split
        · refine h.trans (.trans ?_ (.later _ _))
          exact (TierWork.modTier _ (fun t => { t with evict := t.evict ++ [v] }) rfl).setFrame v fun hb => .inl (hkind hb)
        · refine h.trans (.trans ?_ (.useHbm _ _ _))
          exact (TierWork.refl _).setFrame v fun hb => .inl (hkind hb)
theorem TierWork.askPeer (s : State) (pkg a n : Nat) (write : Bool) : TierWork s (s.askPeer pkg a n write) := by
  refine .foldl (fun s i => ?_) _ s
  split
  · exact .send s _
  · exact .refl s
theorem TierWork.askBacking (s : State) (e : Frame) (write : Bool) : TierWork s (s.askBacking e write) := by
  unfold State.askBacking
  split
  · exact .askPeer s _ _ _ _
  · exact .refl s
theorem TierWork.chargeFetch (s : State) (f : Nat) : TierWork s (s.chargeFetch f) := by
  unfold State.chargeFetch
  dsimp only
  have h : TierWork s (s.modTier fun x => { x with asker := Map.set 0 x.asker f 0 }) := .modTier s _ rfl
  split
  · exact h
  · exact h.trans (CrewWork.chargeRest _ _ _ _ _ _).tierWork
theorem TierWork.fetchFrame (s : State) (f : Nat) : TierWork s (s.fetchFrame f) := by
  unfold State.fetchFrame
  extract_lets e
  split
  · exact .refl s
  · next habs =>
    have hfound : TierWork s (if s.backingOpen e = true then s.findHbm else (s, none)).1 := by
      split
      · exact .findHbm s
      · exact .refl s
    -- an ABSENT frame without a backing copy has kind 0, which its fetch keeps
    have hkind : (s.frame f).NoBacking → e.kind = 0 := by
      rintro (h0 | h0)
      · exact h0
      · exact absurd h0 (by rw [show (s.frame f).state = .absent by simpa using habs]; decide)
    split
    · next heq =>
      rw [heq] at hfound
      refine .trans (.trans (.trans ?_ (.modTier _ _ rfl)) (.chargeFetch _ _)) (.later _ _)
      exact ((hfound.trans (.askBacking _ _ _)).trans (.useHbm _ _ _)).setFrame f fun hb => .inl (hkind hb)
    · next heq =>
      rw [heq] at hfound
      exact hfound.trans (.modTier _ _ rfl)
theorem TierWork.supply (s : State) (p : Want → Bool) (got : List AtcEntry) : TierWork s (s.supply p got) := by
  have hwaits (ws : List Wait) : TierWork s { s with waits := ws } := ⟨rfl, fun _ _ => rfl, fun _ h => h⟩
  have hsoon (s : State) (i : Instr) : TierWork s (s.soon i) := ⟨rfl, fun _ _ => rfl, fun _ h => h⟩
  unfold State.supply
  exact (hwaits _).trans (.foldl hsoon _ _)
theorem TierWork.pumpFetch (s : State) : TierWork s s.pumpFetch :=
  (TierWork.foldl (fun s f => .fetchFrame s f) _ s).trans (.supply _ _ _)

end Sys2Proof.Machine
end

section
/-! PROOF. The resets (R24, R25): what a cold one leaves, and what a warm one clears and keeps. -/

namespace Sys2Proof.Machine

/-- Dropping the entries whose key fails a test leaves the default there. -/
theorem Map.get_filter_key {α : Type} (d : α) (p : Nat → Bool) (m : Map α) (a : Nat) :
    Map.get d (m.filter fun e => p e.1) a = if p a = true then Map.get d m a else d := by
  split
  · next hp => exact Map.get_filter d _ m a fun _ _ => hp
  · next hp =>
    induction m with
    | nil => rfl
    | cons e m ih =>
      obtain ⟨k, v⟩ := e
      by_cases hk : p k = true
      · have hak : a ≠ k := by rintro rfl; exact hp hk
        simpa [List.filter_cons, hk, Map.get, hak] using ih
      · simpa [List.filter_cons, hk] using ih

theorem Memory.read_filter (p : Nat → Bool) (m : List Host.Cell) (a : Nat) :
    Memory.read (m.filter fun e => p e.1) a = if p a = true then Memory.read m a else 0 := Map.get_filter_key memDefault p m a

/- The cold reset -/
/-- With no unload pending, the partitions whose LAW_FAULT a reset sets are those of the tenants with a law (R83). -/
theorem State.mem_lawParts (s : State) (h : ∀ sl q, .drop sl q ∉ s.bin.acts) (p : Nat) :
    p ∈ s.lawParts ↔ ∃ e ∈ s.bin.laws, ∃ n, e.2.tenant = some n ∧ s.tenantPart n = p := by
  unfold State.lawParts
  extract_lets dropped
  have hdropped : dropped = [] := by
    refine List.filterMap_eq_nil_iff.2 fun a ha => ?_
    cases a with
    | drop sl q => exact absurd ha (h sl q)
    | _ => rfl
  simp [hdropped]

theorem State.cold_reg (s : State) : s.cold.reg rBootStage = 1 := by
  simp only [State.cold, State.reg_setRegBits, if_true]
  rfl

/-- A cold reset: stage 1 begins, memory outside the package and the one-time array stay, all else is as after `State.reset`. -/
theorem coldReset_leaves (s : State) : ∃ t, exec .coldReset s = .next t ∧ t.stage = 1 ∧ t.bootError = 0 ∧ t.g = 0 ∧
    t.ctxs = [] ∧ t.posted = [] ∧ t.pilot.crews = [] ∧ t.bin.laws = [] ∧ t.tripped = false ∧ t.repairs = s.repairs ∧
    t.svnMin = s.svnMin ∧ t.fenced = s.fenced ∧
    ((∀ sl q, .drop sl q ∉ s.bin.acts) →
      ∀ p, p ∈ t.bin.lawFault ↔ ∃ e ∈ s.bin.laws, ∃ n, e.2.tenant = some n ∧ s.tenantPart n = p) ∧
    ∀ k, t.byte k = if 2 ^ 72 ≤ k ∧ k < 2 ^ 90 then s.byte k else 0 := by
  refine ⟨s.cold, rfl, ?_, ?_, rfl, rfl, rfl, rfl, rfl, rfl, rfl, rfl, rfl, fun h => State.mem_lawParts s h, fun k => ?_⟩
  · simp only [State.stage, State.regBits, State.cold_reg]; decide
  · simp only [State.bootError, State.regBits, State.cold_reg]; decide
  · refine (Memory.read_filter outside s.mem k).trans ?_
    simp only [outside, Bool.and_eq_true, decide_eq_true_eq]
    rfl

/- The warm reset -/
/-- A warm reset does nothing while stages 1 to 3 run, and where only a cold one restarts the sequence (R26). -/
theorem warmReset_ignored (s : State) (h : s.bootError = 0 ∧ s.stage < 4 ∨ s.bootError ∈ [1, 2, 5]) :
    exec .warmReset s = .next s := by
  show execWarmReset s = .next s
  rw [execWarmReset, if_pos]
  simpa [or_assoc] using h

/-- `t` is `s` but for the tiers and what is due. -/
def TierOnly (s t : State) : Prop := t = { s with tier := t.tier, agenda := t.agenda, fresh := t.fresh }

theorem TierOnly.trans {s t u : State} (h : TierOnly s t) (h' : TierOnly t u) : TierOnly s u := by
  unfold TierOnly at *; rw [h', h]
theorem TierOnly.modTier (s : State) (f : Tier → Tier) : TierOnly s (s.modTier f) := rfl
theorem TierOnly.later (s : State) (i : Instr) : TierOnly s (s.later i) := rfl
theorem TierOnly.scrubFrame (s : State) (f : Nat) : TierOnly s (s.scrubFrame f) := by
  unfold State.scrubFrame
  extract_lets s1 e s2 s3 first s4
  have h3 : TierOnly s s3 :=
    (((TierOnly.modTier s _).trans (.modTier _ _)).trans (.modTier s1 _)).trans (.modTier s2 _)
  split
  · exact h3
  · split
    · exact (h3.trans (.modTier s3 _)).trans (.later s4 _)
    · exact h3.trans (.modTier s3 _)

/-- Besides, a frame in SCRUB stays there, and no granule comes. -/
structure ScrubWork (s t : State) : Prop where
  rest : TierOnly s t
  stack : s.tier.stack = [] → t.tier.stack = []
  scrub : ∀ f, (s.frame f).state = .scrub → (t.frame f).state = .scrub

theorem ScrubWork.refl (s : State) : ScrubWork s s := ⟨rfl, id, fun _ => id⟩
theorem ScrubWork.trans {s t u : State} (h : ScrubWork s t) (h' : ScrubWork t u) : ScrubWork s u :=
  ⟨h.rest.trans h'.rest, fun hs => h'.stack (h.stack hs), fun f hf => h'.scrub f (h.scrub f hf)⟩

theorem State.frame_congr {s t : State} (h : t.tier.frames = s.tier.frames) (f : Nat) : t.frame f = s.frame f := by
  simp only [State.frame, h]

/-- What entering SCRUB does to the tiers: the frame's entry is written and its granules go. -/
theorem State.tier_scrubFrame (s : State) (f : Nat) : ∃ e : Frame, e.state = .scrub ∧
    (s.scrubFrame f).tier.frames = Map.set .start s.tier.frames f e ∧
    (s.scrubFrame f).tier.stack = s.tier.stack.filter fun x => !(x.2.frame == f) := by
  refine ⟨{ s.frame f with state := .scrub, out := false, hbm := if (s.frame f).placed then (s.frame f).hbm else hbmFrames }, rfl, ?_⟩
  unfold State.scrubFrame
  extract_lets s1 e s2 s3 first s4
  split
  · exact ⟨rfl, rfl⟩
  · split <;> exact ⟨rfl, rfl⟩
/-- A frame that enters SCRUB stands in it; other frames keep their states. -/
theorem State.state_scrubFrame (s : State) (f x : Nat) :
    ((s.scrubFrame f).frame x).state = if x = f then .scrub else (s.frame x).state := by
  obtain ⟨e, he, hframes, -⟩ := s.tier_scrubFrame f
  rw [State.frame, hframes, Map.get_set]
  split
  · exact he
  · rfl
theorem ScrubWork.scrubFrame (s : State) (f : Nat) : ScrubWork s (s.scrubFrame f) := by
  refine ⟨.scrubFrame s f, fun hs => ?_, fun x hx => ?_⟩
  · obtain ⟨-, -, -, hstack⟩ := s.tier_scrubFrame f
    rw [hstack, hs]; rfl
  · rw [State.state_scrubFrame]
    split
    · rfl
    · exact hx
/-- Frames that enter SCRUB one after the other all stand in it at the end. -/
theorem ScrubWork.scrubAll (l : List (Nat × Frame)) (s : State) :
    ScrubWork s (l.foldl (fun s e => s.scrubFrame e.1) s) ∧
      ∀ e ∈ l, ((l.foldl (fun s e => s.scrubFrame e.1) s).frame e.1).state = .scrub := by
  induction l generalizing s with
  | nil => exact ⟨.refl s, fun e he => by cases he⟩
  | cons x l ih =>
    obtain ⟨hwork, hscrub⟩ := ih (s.scrubFrame x.1)
    refine ⟨(ScrubWork.scrubFrame s x.1).trans hwork, fun e he => ?_⟩
    rcases List.mem_cons.1 he with rfl | he
    · exact hwork.scrub e.1 (by rw [State.state_scrubFrame, if_pos rfl])
    · exact hscrub e he

/-- A frame that is listed is listed with its entry as it reads. -/
theorem Map.mem_get {α : Type} (d : α) (m : Map α) (a : Nat) (h : a ∈ m.map (·.1)) : (a, Map.get d m a) ∈ m := by
  induction m with
  | nil => cases h
  | cons e m ih =>
    obtain ⟨k, v⟩ := e
    by_cases hk : a = k
    · subst hk; simp [Map.get]
    · simp only [Map.get, if_neg hk]
      exact List.mem_cons_of_mem _ (ih (by simpa [hk] using h))

/-- `t` is `s` but for its registers, of which one is kept. -/
structure RegWork (k : Nat) (s t : State) : Prop where
  rest : t = { s with regs := t.regs }
  same : t.reg k = s.reg k

theorem RegWork.refl (k : Nat) (s : State) : RegWork k s s := ⟨rfl, rfl⟩
theorem RegWork.trans {k : Nat} {s t u : State} (h : RegWork k s t) (h' : RegWork k t u) : RegWork k s u :=
  ⟨by rw [h'.rest, h.rest], h'.same.trans h.same⟩
theorem RegWork.setReg {k j : Nat} (s : State) (v : Word) (h : k ≠ j) : RegWork k s (s.setReg j v) := ⟨rfl, by simp [h]⟩
theorem RegWork.foldl {k : Nat} {f : State → Nat → State} (h : ∀ s n, RegWork k s (f s n)) (l : List Nat) (s : State) :
    RegWork k s (l.foldl f s) :=
  List.foldlRecOn l f (.refl k s) fun _ ht n _ => ht.trans (h _ n)

/-- LAW_FAULT of the partitions of unloaded laws is the power plane's alone (R83). -/
theorem State.addFaults_rest (s : State) (ps : List Nat) : (ps.foldl (fun s p => s.addFault (some p)) s) =
    { s with bin := (ps.foldl (fun s p => s.addFault (some p)) s).bin } :=
  List.foldlRecOn (motive := fun t : State => t = { s with bin := t.bin }) ps _ rfl fun t ht p _ => by
    rw [ht]; rfl

/-- The crews end and what their commands owe is paid. -/
theorem CrewWork.endAll (s : State) (l : List (Nat × Crew)) :
    CrewWork s (l.foldl (fun (s : State) (e : Nat × Crew) => (s.failCrew e.1 0 0xFFFF).payOwed e.1) s) :=
  List.foldlRecOn (motive := CrewWork s) l _ (.refl s) fun _ ht _ _ => ht.trans ((CrewWork.failCrew _ _ _ _).trans (.payOwed _ _))

/-- What a warm reset has cleared and kept before it scrubs frames: host and HBM bytes, the frame map and the repairs stay. -/
structure WarmCleared (s u : State) : Prop where
  bytes : ∀ k, k < 2 ^ 72 → u.byte k = s.byte k
  frames : u.tier.frames = s.tier.frames
  repairs : u.repairs = s.repairs
  ctxs : u.ctxs = []
  posted : u.posted = []
  tdisp : u.tdisp = []
  crews : u.pilot.crews = []
  stack : u.tier.stack = []

/-- Memory that a warm reset keeps, through both of its clearings. -/
theorem Memory.read_warmCleared (m : List Host.Cell) {k : Nat} (hk : k < 2 ^ 72) :
    Memory.read ((m.filter fun e => !warmCleared e.1).filter fun e =>
      !(decide (scratchKey 0 ≤ e.1) && decide (e.1 < scratchKey (2 ^ 31)))) k = Memory.read m k := by
  have hbuf : ¬ bufKey 0 0 0 ≤ k := by simp only [bufKey]; omega
  have hseq : ¬ 2 ^ 111 ≤ k := by omega
  have hscr : ¬ scratchKey 0 ≤ k := by simp only [scratchKey]; omega
  have hwarm : warmCleared k = false := by rw [warmCleared, decide_eq_false hbuf, decide_eq_false hseq]; rfl
  have hscratch : (decide (scratchKey 0 ≤ k) && decide (k < scratchKey (2 ^ 31))) = false := by
    rw [decide_eq_false hscr]; rfl
  rw [Memory.read_filter fun a => !(decide (scratchKey 0 ≤ a) && decide (a < scratchKey (2 ^ 31))), hscratch,
    Memory.read_filter fun a => !warmCleared a, hwarm]
  rfl

/-- LAW_STATUS, PART_STAT and BOOT_STAGE, written last, are registers alone, and FEAT_COMMIT is not among them. -/
theorem RegWork.warmStatus (s : State) : RegWork rFeatCommit s
    (((List.range 32).foldl (fun s p => (s.setRegBits (rPartStat p) 6 0 0).setRegBit (rPartStat p) 32 false)
      ((List.range 33).foldl (fun s fn => s.setReg (rLawStatus fn) 0) s)).setReg rBootStage 4) := by
  have hlaw (s : State) (fn : Nat) : RegWork rFeatCommit s (s.setReg (rLawStatus fn) 0) :=
    .setReg s 0 (by simp only [rFeatCommit, rLawStatus, fnKey]; omega)
  have hpart (s : State) (p : Nat) :
      RegWork rFeatCommit s ((s.setRegBits (rPartStat p) 6 0 0).setRegBit (rPartStat p) 32 false) := by
    have hp : rFeatCommit ≠ rPartStat p := by simp only [rFeatCommit, rPartStat, rPart]; omega
    exact (RegWork.setReg s _ hp).trans (.setReg _ _ hp)
  exact ((RegWork.foldl hlaw _ s).trans (.foldl hpart _ _)).trans (.setReg _ 4 (by decide))

/-- A warm reset clears, scrubs every frame that holds a HBM frame, and then writes the power plane and registers alone. -/
theorem State.warm_clears (s : State) : ∃ u, WarmCleared s u ∧
    let v := (u.tier.frames.filter fun e => e.2.placed).foldl (fun s e => s.scrubFrame e.1) u
    s.warm = { v with regs := s.warm.regs, bin := s.warm.bin } ∧ s.warm.bin.laws = [] ∧ s.warm.bin.gate = [] ∧
      s.warm.bin.envCap = [] ∧ s.warm.bin.hints = [] := by
  obtain ⟨t, ht⟩ : ∃ t, t = s.warm := ⟨_, rfl⟩
  rw [← ht]
  unfold State.warm at ht
  extract_lets s1 s2 again p0 s3 s4 s5 s6 s7 s8 s9 s10 at ht
  have hcrews : CrewWork s1 s2 := .endAll s1 _
  have hfaults : s1 = { s with bin := s1.bin } := State.addFaults_rest s _
  have hmem : s2.mem = s.mem := by rw [hcrews.mem, hfaults]
  have hs5 : WarmCleared s s5 := by
    refine ⟨fun k hk => ?_, ?_, ?_, rfl, rfl, rfl, rfl, rfl⟩
    · exact (Memory.read_warmCleared s2.mem hk).trans (congrArg (Memory.read · k) hmem)
    · exact hcrews.frames.trans (by rw [hfaults])
    · exact hcrews.repairs.trans (by rw [hfaults])
  have hs6 : s6 = (s5.tier.frames.filter fun e => e.2.placed).foldl (fun s e => s.scrubFrame e.1) s5 := rfl
  clear_value s6 s5
  have hregs : RegWork rFeatCommit s8 t := by rw [ht]; exact .warmStatus s8
  have hs8 : s8 = { s7 with regs := s8.regs } := rfl
  refine ⟨s5, hs5, ?_⟩
  rw [← hs6]
  clear_value s8
  rw [hregs.rest, hs8]
  exact ⟨rfl, rfl, rfl, rfl, rfl⟩

/-- A warm reset leaves BOOT_STAGE at stage 4 without an error, and no feature committed. -/
theorem State.warm_regs (s : State) : s.warm.reg rBootStage = 4 ∧ s.warm.reg rFeatCommit = 0 := by
  obtain ⟨t, ht⟩ : ∃ t, t = s.warm := ⟨_, rfl⟩
  rw [← ht]
  unfold State.warm at ht
  extract_lets s1 s2 again p0 s3 s4 s5 s6 s7 s8 s9 s10 at ht
  have hregs : RegWork rFeatCommit s8 t := by rw [ht]; exact .warmStatus s8
  refine ⟨?_, ?_⟩
  · rw [ht, State.reg_setReg, if_pos rfl]
  · exact hregs.same.trans ((State.reg_setReg _ _ _ _).trans (if_pos rfl))

/-- A warm reset begins stage 4: contexts, crews, laws and stacks are cleared, host and HBM bytes kept, and every frame that holds
a HBM frame enters SCRUB (R24). -/
theorem warmReset_runs (s : State) (h : ¬(s.bootError = 0 ∧ s.stage < 4 ∨ s.bootError ∈ [1, 2, 5])) :
    ∃ t, exec .warmReset s = .next t ∧ t.stage = 4 ∧ t.bootError = 0 ∧ t.ctxs = [] ∧ t.posted = [] ∧ t.tdisp = [] ∧
      t.pilot.crews = [] ∧ t.bin.laws = [] ∧ t.regBit rFeatCommit 0 = false ∧ t.tier.stack = [] ∧ t.repairs = s.repairs ∧
      (∀ i, t.gate i = 0) ∧ (∀ c, t.envCap c = 64) ∧ t.bin.hints = [] ∧ (∀ k, k < 2 ^ 72 → t.byte k = s.byte k) ∧
      ∀ f, f ∈ s.tier.frames.map (·.1) → (s.frame f).placed = true → (t.frame f).state = .scrub := by
  obtain ⟨hstage, hcommit⟩ := s.warm_regs
  obtain ⟨u, hu, ht, hlaws, hgate, hcap, hhints⟩ := s.warm_clears
  obtain ⟨hscrub, hall⟩ := ScrubWork.scrubAll (u.tier.frames.filter fun e => e.2.placed) u
  have hexec : exec .warmReset s = .next s.warm := by
    show execWarmReset s = .next s.warm
    rw [execWarmReset, if_neg]
    simpa [or_assoc] using h
  refine ⟨s.warm, hexec, ?_⟩
  clear hexec
  generalize s.warm = t at *
  generalize (u.tier.frames.filter fun e => e.2.placed).foldl (fun s e => s.scrubFrame e.1) u = v at *
  have hv : v = { u with tier := v.tier, agenda := v.agenda, fresh := v.fresh } := hscrub.rest
  have hmem : t.mem = u.mem := by rw [ht, hv]
  have htier : t.tier = v.tier := by rw [ht]
  refine ⟨?_, ?_, ?_, ?_, ?_, ?_, hlaws, ?_, ?_, ?_, ?_, ?_, hhints, ?_, ?_⟩
  · simp only [State.stage, State.regBits, hstage]; decide
  · simp only [State.bootError, State.regBits, hstage]; decide
  · rw [ht, hv]; exact hu.ctxs
  · rw [ht, hv]; exact hu.posted
  · rw [ht, hv]; exact hu.tdisp
  · rw [ht, hv]; exact hu.crews
  · simp [State.regBit, hcommit]
  · rw [htier]; exact hscrub.stack hu.stack
  · rw [ht, hv]; exact hu.repairs
  · intro i; simp [State.gate, hgate, Map.get]
  · intro c; simp [State.envCap, hcap, Map.get]
  · intro k hk; exact (congrArg (Memory.read · k) hmem).trans (hu.bytes k hk)
  · intro f hf hplaced
    rw [State.frame_congr (congrArg Tier.frames htier)]
    refine hall (f, s.frame f) (List.mem_filter.2 ⟨?_, hplaced⟩)
    rw [hu.frames]
    exact Map.mem_get Frame.start s.tier.frames f hf

end Sys2Proof.Machine
end

section
/-! PROOF. The end of a boot stage (R25, R26). -/

namespace Sys2Proof.Machine

variable (s : State)

/-- A stage that fails holds, names its error and keeps VF Enable clear (R26). -/
theorem State.bootFails_spec {e : Nat} (he : e < 256) :
    (s.bootFails e).stage = s.stage ∧ (s.bootFails e).bootError = e ∧ (s.bootFails e).vfOn = 0 := by
  refine ⟨?_, ?_, rfl⟩
  · exact State.regBits_setRegBits_other { s with vfOn := 0 } e (by decide) (by decide) (.inr (.inl (by decide)))
  · exact (State.regBits_setRegBits_same { s with vfOn := 0 } e (by decide) (by decide)).trans (Nat.mod_eq_of_lt he)

/-- The next stage begins: the stage counts on, and ERROR is as the register held it. -/
theorem State.nextStage_spec {u : State} (hu : u.reg rBootStage = s.reg rBootStage) (h8 : s.stage < 8) :
    (u.setRegBits rBootStage 7 0 (s.stage + 1)).stage = s.stage + 1 ∧
      (u.setRegBits rBootStage 7 0 (s.stage + 1)).bootError = s.bootError := by
  refine ⟨?_, ?_⟩
  · exact (State.regBits_setRegBits_same u _ (by decide) (by decide)).trans (Nat.mod_eq_of_lt (by omega))
  · refine (State.regBits_setRegBits_other u _ (by decide) (by decide) (.inr (.inr (by decide)))).trans ?_
    simp only [State.bootError, State.regBits, hu]

section
variable {error dies : BitVec 8} (h0 : s.bootError = 0) (h8 : s.stage < 8)
include h0 h8

theorem bootStageComplete_bad (he : error.toNat ∈ stageErrors s.stage) :
    exec (.bootStageComplete error dies) s = .next (s.bootFails error.toNat) := by
  show execBootStageComplete error dies s = _
  rw [execBootStageComplete, if_neg (by simp; omega), if_pos (by simpa using he)]

theorem bootStageComplete_next (he : error.toNat ∉ stageErrors s.stage) {u : State} (hu : s.stageWork s.stage dies = .ok u) :
    exec (.bootStageComplete error dies) s = .next (u.setRegBits rBootStage 7 0 (s.stage + 1)) := by
  show execBootStageComplete error dies s = _
  rw [execBootStageComplete, if_neg (by simp; omega), if_neg (by simpa using he)]
  simp only [hu]

theorem bootStageComplete_meets (he : error.toNat ∉ stageErrors s.stage) {e : Nat}
    (hmeets : s.stageWork s.stage dies = .error e) : exec (.bootStageComplete error dies) s = .next (s.bootFails e) := by
  show execBootStageComplete error dies s = _
  rw [execBootStageComplete, if_neg (by simp; omega), if_neg (by simpa using he)]
  simp only [hmeets]
end

/- What the stages do -/
theorem State.reg_foldl {α : Type} {f : State → α → State} {k : Nat} (h : ∀ s a, (f s a).reg k = s.reg k) (l : List α) (s : State) :
    (l.foldl f s).reg k = s.reg k :=
  List.foldlRecOn (motive := fun t : State => t.reg k = s.reg k) l f rfl fun _ ht a _ => (h _ a).trans ht

theorem State.reg_setSpareCores {k : Nat} (d n : Nat) (h : k ≠ rPkgSpare) : (s.setSpareCores d n).reg k = s.reg k := by
  rw [State.setSpareCores, State.reg_setRegBits, if_neg h]
theorem State.reg_setSpareSlices {k : Nat} (d n : Nat) (h : k ≠ rPkgSpare) : (s.setSpareSlices d n).reg k = s.reg k := by
  rw [State.setSpareSlices, State.reg_setRegBits, if_neg h]
theorem State.reg_remapCore {k : Nat} (core : Nat) (h : k ≠ rPkgSpare) : (s.remapCore core).reg k = s.reg k :=
  s.reg_setSpareCores _ _ h

theorem State.reg_withCores (k : Nat) (l : List Nat) (m : Map Nat) : ({ s with fenced := l, remap := m } : State).reg k = s.reg k := rfl

/-- Stage 1 writes PKG_SPARE, UAL_STATE and FW_STATUS, and loads the spare lanes (R36). -/
theorem State.readFuses_spec : s.readFuses.reg rBootStage = s.reg rBootStage ∧
    s.readFuses.regBits rUalState 47 44 = Config.spareLanes := by
  unfold State.readFuses
  extract_lets rec' lost s1 failed stuck fused repaired s2 s3 s4
  have h1 : s1.reg rBootStage = s.reg rBootStage := by
    refine State.reg_foldl (fun s d => ?_) _ s
    rw [State.reg_setSpareSlices _ _ _ (by decide), State.reg_setSpareCores _ _ _ (by decide)]
  have h3 : s3.reg rBootStage = s2.reg rBootStage := by
    refine State.reg_foldl (fun s c => ?_) _ s2
    split
    · exact s.reg_remapCore c (by decide)
    · rfl
  have h4 : s4.reg rBootStage = s3.reg rBootStage := by
    refine State.reg_foldl (fun s e => ?_) _ s3
    simp only [State.reg, State.modTier_regs]
  have h2 : s2.reg rBootStage = s1.reg rBootStage := s1.reg_withCores _ _ _
  refine ⟨?_, ?_⟩
  · rw [State.reg_setRegBits, if_neg (by decide), State.reg_setRegBits, if_neg (by decide), h4, h3, h2, h1]
  · rw [State.regBits_setRegBits_other _ _ (by decide) (by decide) (.inl (by decide)),
      State.regBits_setRegBits_same _ _ (by decide) (by decide)]
    exact Nat.mod_eq_of_lt (by have := Nat.mod_lt Config.spareLanesRaw (show 0 < 10 by decide); simp only [Config.spareLanes]; omega)

theorem State.reg_systemLaws (k : Nat) : s.systemLaws.reg k = s.reg k := by
  refine State.reg_foldl (fun s slot => ?_) _ s
  dsimp only
  split <;> rfl

/-- Every stage but 2 and 5 ends well, whatever the dies are found to be. -/
theorem State.stageWork_ok (stage : Nat) (dies : BitVec 8) (h2 : stage ≠ 2) (h5 : stage ≠ 5) :
    ∃ u, s.stageWork stage dies = .ok u ∧ u.reg rBootStage = s.reg rBootStage ∧
      (stage = 1 → u.regBits rUalState 47 44 = Config.spareLanes) := by
  unfold State.stageWork
  split
  · exact ⟨_, rfl, s.readFuses_spec.1, fun _ => s.readFuses_spec.2⟩
  · exact absurd rfl h2
  · exact ⟨_, rfl, rfl, nofun⟩
  · exact absurd rfl h5
  · exact ⟨_, rfl, s.reg_systemLaws _, nofun⟩
  · exact ⟨_, rfl, rfl, nofun⟩
  · next h1 _ _ _ _ _ => exact ⟨s, rfl, rfl, fun h => absurd h h1⟩

/-- The die states that stage 2 finds, by die. -/
theorem State.stageDies (dies : BitVec 8) {i : Nat} (hi : i < 4) :
    Map.get 0 ((List.range 4).foldl (fun m d => Map.set 0 m d (Nat.min 2 ((dies.extractLsb' (2 * d) 2).toNat))) []) i =
      Min.min 2 (dies.toNat / 4 ^ i % 4) := by
  have hfound : (dies.extractLsb' (2 * i) 2).toNat = dies.toNat / 4 ^ i % 4 := by
    have hpow : 2 ^ (2 * i) = 4 ^ i := Nat.pow_mul 2 2 i
    exact (BitVec.extractLsb'_toNat _ _ _).trans
      (congrArg (· % 4) ((Nat.shiftRight_eq_div_pow _ _).trans (congrArg (dies.toNat / ·) hpow)))
  rw [← hfound]
  simp only [show List.range 4 = [0, 1, 2, 3] from rfl, List.foldl_cons, List.foldl_nil, Map.get_set]
  have : i = 0 ∨ i = 1 ∨ i = 2 ∨ i = 3 := by omega
  rcases this with rfl | rfl | rfl | rfl <;> rfl

/-- No die is LIVE exactly when none of the four is found so. -/
theorem State.liveDies_isEmpty : s.liveDies.isEmpty = true ↔ ∀ i, i < 4 → s.dieState i ≠ 2 := by
  simp [State.liveDies, List.isEmpty_iff, List.filter_eq_nil_iff]

/-- Stage 2 ends with the die states it finds, or with error 5 when no die is LIVE. -/
theorem State.stageWork_dies (dies : BitVec 8) :
    ((∃ i, i < 4 ∧ 2 ≤ dies.toNat / 4 ^ i % 4) → ∃ m, s.stageWork 2 dies = .ok { s with die := m } ∧
      ∀ i, i < 4 → Map.get 0 m i = Min.min 2 (dies.toNat / 4 ^ i % 4)) ∧
    ((∀ i, i < 4 → dies.toNat / 4 ^ i % 4 < 2) → s.stageWork 2 dies = .error 5) := by
  obtain ⟨m, hm⟩ : ∃ m, m = (List.range 4).foldl (fun m d => Map.set 0 m d (Nat.min 2 ((dies.extractLsb' (2 * d) 2).toNat))) [] :=
    ⟨_, rfl⟩
  have hwork : s.stageWork 2 dies = if ({ s with die := m } : State).liveDies.isEmpty = true then .error 5
      else .ok { s with die := m } := by rw [hm]; rfl
  have hstates (i : Nat) (hi : i < 4) : ({ s with die := m } : State).dieState i = Min.min 2 (dies.toNat / 4 ^ i % 4) := by
    rw [State.dieState, hm]; exact State.stageDies dies hi
  rw [hwork]
  refine ⟨fun ⟨i, hi, hlive⟩ => ⟨m, if_neg fun hnone => ?_, hstates⟩, fun hnone => if_pos ?_⟩
  · exact (State.liveDies_isEmpty _).1 hnone i hi (by rw [hstates i hi]; omega)
  · exact (State.liveDies_isEmpty _).2 fun i hi => by rw [hstates i hi]; have := hnone i hi; omega

/-- BOOT_STAGE_COMPLETE, for every stage that runs: the error it names, or the next stage, or what the stage meets after all. -/
theorem bootStageComplete_leads (error dies : BitVec 8) (h0 : s.bootError = 0) (h8 : s.stage < 8) :
    (error.toNat ∈ stageErrors s.stage → ∃ t, exec (.bootStageComplete error dies) s = .next t ∧ t.stage = s.stage ∧
      t.bootError = error.toNat ∧ t.vfOn = 0) ∧
    (error.toNat ∉ stageErrors s.stage →
      (s.stage ≠ 2 → s.stage ≠ 5 → ∃ t, exec (.bootStageComplete error dies) s = .next t ∧ t.stage = s.stage + 1 ∧ t.bootError = 0 ∧
        (s.stage = 1 → t.regBits rUalState 47 44 = Config.spareLanes)) ∧
      (s.stage = 2 → (∃ i, i < 4 ∧ 2 ≤ dies.toNat / 4 ^ i % 4) → ∃ t, exec (.bootStageComplete error dies) s = .next t ∧ t.stage = 3 ∧
        ∀ i, i < 4 → t.dieState i = Min.min 2 (dies.toNat / 4 ^ i % 4)) ∧
      (s.stage = 2 → (∀ i, i < 4 → dies.toNat / 4 ^ i % 4 < 2) → ∃ t, exec (.bootStageComplete error dies) s = .next t ∧
        t.stage = 2 ∧ t.bootError = 5 ∧ t.vfOn = 0) ∧
      (s.stage = 5 → s.fwHeader = [] → ∃ t, exec (.bootStageComplete error dies) s = .next t ∧
        (Config.bootImage = [] → t.stage = 5 ∧ t.bootError = 4)) ∧
      (s.stage = 5 → s.fwHeader ≠ [] → ∃ t, exec (.bootStageComplete error dies) s = .next t ∧ t.stage = 6 ∧ t.bootError = 0)) := by
  refine ⟨fun he => ⟨_, bootStageComplete_bad s h0 h8 he, s.bootFails_spec error.isLt⟩, fun he => ?_⟩
  refine ⟨fun h2 h5 => ?_, fun h2 hlive => ?_, fun h2 hnone => ?_, fun h5 hfw => ?_, fun h5 hfw => ?_⟩
  · obtain ⟨u, hu, hreg, hspare⟩ := s.stageWork_ok s.stage dies h2 h5
    obtain ⟨hstage, herror⟩ := s.nextStage_spec hreg h8
    refine ⟨_, bootStageComplete_next s h0 h8 he hu, hstage, herror.trans h0, fun h1 => ?_⟩
    rw [State.regBits_setRegBits_other _ _ (by decide) (by decide) (.inl (by decide)), hspare h1]
  · obtain ⟨m, hm, hstates⟩ := (s.stageWork_dies dies).1 hlive
    obtain ⟨hstage, -⟩ := s.nextStage_spec (u := { s with die := m }) rfl h8
    have hexec := bootStageComplete_next s h0 h8 he (by rw [h2]; exact hm)
    exact ⟨_, hexec, by rw [hstage, h2], hstates⟩
  · obtain ⟨hstage, herror⟩ := s.bootFails_spec (e := 5) (by decide)
    exact ⟨_, bootStageComplete_meets s h0 h8 he (by rw [h2]; exact (s.stageWork_dies dies).2 hnone), hstage.trans h2, herror⟩
  · obtain ⟨t, ht⟩ : ∃ t, exec (.bootStageComplete error dies) s = .next t := ⟨_, rfl⟩
    refine ⟨t, ht, fun himage => ?_⟩
    have hwork : s.stageWork s.stage dies = .error 4 := by simp [State.stageWork, h5, hfw, himage]
    have hexec := bootStageComplete_meets s h0 h8 he hwork
    obtain rfl : t = s.bootFails 4 := Host.Outcome.next.inj (ht.symm.trans hexec)
    obtain ⟨hstage, herror, -⟩ := s.bootFails_spec (e := 4) (by decide)
    exact ⟨hstage.trans h5, herror⟩
  · have hwork : s.stageWork s.stage dies = .ok (s.setRegBits rFwStatus 39 32 (byteAt s.fwHeader 8)) := by
      simp [State.stageWork, h5, hfw]
    obtain ⟨hstage, herror⟩ := s.nextStage_spec (u := s.setRegBits rFwStatus 39 32 (byteAt s.fwHeader 8))
      (by rw [State.reg_setRegBits, if_neg (by decide)]) h8
    exact ⟨_, bootStageComplete_next s h0 h8 he hwork, by rw [hstage, h5], herror.trans h0⟩

end Sys2Proof.Machine
end

section
/-! PROOF. Spares, slices and failing cores (R19 to R21). -/

namespace Sys2Proof.Machine

variable (s : State)

/-- A die without a field in PKG_SPARE has no spare core. -/
theorem State.spareCores_pos {d : Nat} (h : 0 < s.spareCores d) : d < 4 := by
  refine Classical.byContradiction fun hd => ?_
  have : s.spareCores d = 0 := by
    rw [State.spareCores, State.regBits, Word.bits, Nat.shiftRight_eq_div_pow, Nat.div_eq_of_lt, Nat.zero_mod]
    exact Nat.lt_of_lt_of_le (s.reg rPkgSpare).isLt (Nat.pow_le_pow_right (by decide) (by omega))
  omega

theorem State.spareCores_set {d : Nat} (n : Nat) (hd : d < 4) (hn : n < 8) : (s.setSpareCores d n).spareCores d = n := by
  refine (State.regBits_setRegBits_same s n (by omega) (by omega)).trans (Nat.mod_eq_of_lt ?_)
  rw [show 16 * d + 2 + 1 - 16 * d = 3 by omega]; exact hn
theorem State.spareSlices_set {d : Nat} (n : Nat) (hd : d < 4) (hn : n < 32) : (s.setSpareSlices d n).spareSlices d = n := by
  refine (State.regBits_setRegBits_same s n (by omega) (by omega)).trans (Nat.mod_eq_of_lt ?_)
  rw [show 16 * d + 12 + 1 - (16 * d + 8) = 5 by omega]; exact hn
theorem Word.bits_lt (w : Word) (hi lo : Nat) : Word.bits w hi lo < 2 ^ (hi + 1 - lo) := Nat.mod_lt _ (Nat.two_pow_pos _)
theorem State.spareCores_lt (d : Nat) : s.spareCores d < 8 := by
  have := Word.bits_lt (s.reg rPkgSpare) (16 * d + 2) (16 * d)
  rwa [show 16 * d + 2 + 1 - 16 * d = 3 by omega] at this
theorem State.spareSlices_lt (d : Nat) : s.spareSlices d < 32 := by
  have := Word.bits_lt (s.reg rPkgSpare) (16 * d + 12) (16 * d + 8)
  rwa [show 16 * d + 12 + 1 - (16 * d + 8) = 5 by omega] at this

/-- A spare core takes the number of a fenced core that no partition holds (R19), with its buffers at zero. -/
theorem spareCoreRemap_takes (core : Nat) (hf : s.fenced.contains core = true) (hp : s.partOfCluster (core / 4) = none)
    (hs : 0 < s.spareCores (core / 96)) : ∃ t, exec (.spareCoreRemap core) s = .next t ∧ core ∉ t.fenced ∧
      Map.get 0 t.remap core = 95 + s.spareCores (core / 96) ∧ t.spareCores (core / 96) = s.spareCores (core / 96) - 1 ∧
      (∀ a, a < 2 ^ 24 → t.byte (bufKey core 0 0 + a) = 0) ∧ (∀ c, c ≠ core → (c ∈ t.fenced ↔ c ∈ s.fenced)) := by
  refine ⟨((s.remapCore core).zeroBuffers core).clearCaches core, ?_, ?_, ?_, ?_, fun a ha => ?_, fun c hc => ?_⟩
  · show execSpareCoreRemap core s = _
    rw [execSpareCoreRemap, if_pos (by simp only [hf, hp, clusterOf, dieOfCore, hs, Option.isNone_none, decide_true, Bool.and_self])]
  · show core ∉ s.fenced.filter (· != core)
    simp
  · exact (Map.get_put _ _ _ _ _).trans (if_pos rfl)
  · have hlt := s.spareCores_lt (core / 96)
    exact s.spareCores_set (s.spareCores (core / 96) - 1) (s.spareCores_pos hs) (by omega)
  · exact (State.byte_zeroRange (s.remapCore core) _ _ _).trans (if_pos (by omega))
  · show c ∈ s.fenced.filter (· != core) ↔ c ∈ s.fenced
    simp [hc]

theorem State.spareSlices_congr {s t : State} (h : t.regs = s.regs) (d : Nat) : t.spareSlices d = s.spareSlices d :=
  State.regBits_congr h _ _ _
/-- The repair record is the one-time array's alone. -/
theorem State.record_keeps (e : Nat) :
    (s.record e).regs = s.regs ∧ (s.record e).tier = s.tier ∧ (s.record e).mem = s.mem := by
  unfold State.record
  generalize s.repairs ++ _ = l
  exact ⟨rfl, rfl, rfl⟩
/-- The spare of a slice that has been copied is counted, and the repair recorded. -/
theorem State.useSlice_spec {d : Nat} (e : Nat) (hd : d < 4) :
    ((s.setSpareSlices d (s.spareSlices d - 1)).record e).spareSlices d = s.spareSlices d - 1 ∧
    ((s.setSpareSlices d (s.spareSlices d - 1)).record e).tier = s.tier ∧
    ((s.setSpareSlices d (s.spareSlices d - 1)).record e).mem = s.mem := by
  have hlt := s.spareSlices_lt d
  obtain ⟨hregs, htier, hmem⟩ := (s.setSpareSlices d (s.spareSlices d - 1)).record_keeps e
  exact ⟨(State.spareSlices_congr hregs d).trans (s.spareSlices_set (s.spareSlices d - 1) hd (by omega)), htier, hmem⟩

/-- The copy of a slice ends: the spare is in use and the quarantined ways count no more (R21). -/
theorem sliceCopyDone_ends (die slice : Nat) (hd : die < 4) (hc : s.tier.copying.contains (384 * die + slice) = true) :
    ∃ t, exec (.sliceCopyDone die slice) s = .next t ∧ 384 * die + slice ∉ t.tier.copying ∧
      Map.get 0 t.tier.disable (384 * die + slice) = 0 ∧ t.spareSlices die = s.spareSlices die - 1 ∧ t.mem = s.mem := by
  have hexec : exec (.sliceCopyDone die slice) s = execSliceCopyDone die slice s := rfl
  unfold execSliceCopyDone at hexec
  extract_lets sl s1 s2 at hexec
  rw [if_neg (by simpa using hc)] at hexec
  have hregs : s2.regs = s.regs := (State.modTier_regs s1 _).trans (State.modTier_regs s _)
  have hmem : s2.mem = s.mem := (State.modTier_mem s1 _).trans (State.modTier_mem s _)
  have hcopying : s2.tier.copying = s.tier.copying.filter (· != sl) := rfl
  have hdisable : s2.tier.disable = Map.set 0 s.tier.disable sl 0 := rfl
  clear_value s2
  obtain ⟨hspare, htier, hmem'⟩ := s2.useSlice_spec (sliceEntry sl) hd
  refine ⟨_, hexec, ?_, ?_, hspare.trans (by rw [State.spareSlices_congr hregs]), hmem'.trans hmem⟩
  · rw [htier, hcopying]
    show sl ∉ _
    simp
  · rw [htier, hdisable]
    exact (Map.get_set _ _ _ _ _).trans (if_pos rfl)

/- A failing core -/
/-- A crew with the reason keeps it, whatever crews end for that reason. -/
theorem State.crew?_failAll_keeps (r : Nat × Nat) (l : List (Nat × Crew)) (s : State) {id : Nat} {cr : Crew}
    (hcr : s.crew? id = some cr) (he : cr.ending = some r) :
    (l.foldl (fun s e => s.failCrew e.1 r.1 r.2) s).crew? id = some cr := by
  refine List.foldlRecOn (motive := fun t : State => t.crew? id = some cr) l _ hcr fun t ht e _ => ?_
  by_cases hid : id = e.1
  · subst hid
    rw [t.failCrew_ending _ _ ht (by rw [he]; rfl)]
    exact ht
  · rw [t.crew?_failCrew_other _ _ hid]
    exact ht
/-- Of crews that end one after the other for one reason, each that was not ending has that reason. -/
theorem State.crew?_failAll (r : Nat × Nat) (l : List (Nat × Crew)) (s : State) {id : Nat} {cr : Crew}
    (hcr : s.crew? id = some cr) (he : cr.ending = none) (hl : ∃ e ∈ l, e.1 = id) :
    ∃ cr', (l.foldl (fun s e => s.failCrew e.1 r.1 r.2) s).crew? id = some cr' ∧ cr'.ending = some r := by
  induction l generalizing s with
  | nil => obtain ⟨e, he, -⟩ := hl; cases he
  | cons e l ih =>
    by_cases hid : id = e.1
    · subst hid
      exact ⟨_, State.crew?_failAll_keeps r l _ (s.crew?_failCrew_same _ _ hcr he) rfl, rfl⟩
    · refine ih (s.failCrew e.1 r.1 r.2) ((s.crew?_failCrew_other _ _ hid).trans hcr) ?_
      obtain ⟨x, hx, hxid⟩ := hl
      rcases List.mem_cons.1 hx with rfl | hx
      · exact absurd hxid.symm hid
      · exact ⟨x, hx, hxid⟩

theorem State.mem_of_crew? {s : State} {id : Nat} {cr : Crew} (h : s.crew? id = some cr) : (id, cr) ∈ s.pilot.crews := by
  obtain ⟨⟨k, c⟩, hfind, hc⟩ := Option.map_eq_some_iff.1 h
  have hk : k = id := by simpa using List.find?_some hfind
  subst hk
  subst hc
  exact List.mem_of_find?_eq_some hfind

theorem State.offerSpares_keeps : s.offerSpares.fenced = s.fenced ∧ s.offerSpares.pilot = s.pilot :=
  List.foldlRecOn (motive := fun t : State => t.fenced = s.fenced ∧ t.pilot = s.pilot) _ _ ⟨rfl, rfl⟩ fun _ ht _ _ => ht

/-- A core that fails is fenced, and every crew with a member on it ends with 0x0A and names it (R20). -/
theorem coreFailure_ends (core : Nat) (hf : s.fenced.contains core = false) :
    ∃ t, exec (.coreFailure core) s = .next t ∧ core ∈ t.fenced ∧
      ∀ id cr, s.crew? id = some cr → cr.mode ≠ .saved → cr.ending = none →
        (∃ x ∈ cr.members, x / 4 = core ∧ (s.ctx x).crew = some id) →
        ∃ cr', t.crew? id = some cr' ∧ cr'.ending = some (0x0A, core) := by
  have hexec : exec (.coreFailure core) s = execCoreFailure core s := rfl
  unfold execCoreFailure at hexec
  extract_lets s1 hit at hexec
  rw [if_neg (by simpa using hf)] at hexec
  obtain ⟨hfenced, hpilot⟩ := State.offerSpares_keeps (hit.foldl (fun s e => s.failCrew e.1 0x0A core) s1)
  have hwork : CrewWork s1 (hit.foldl (fun s e => s.failCrew e.1 0x0A core) s1) :=
    List.foldlRecOn hit _ (.refl s1) fun _ ht e _ => ht.trans (.failCrew _ e.1 0x0A core)
  refine ⟨_, hexec, ?_, fun id cr hcr hmode hend ⟨x, hx, hcore, hxid⟩ => ?_⟩
  · rw [hfenced, hwork.fenced]
    exact List.mem_cons_self
  · rw [State.crew?_congr hpilot]
    have hmem : (id, cr) ∈ s.pilot.crews := State.mem_of_crew? hcr
    refine State.crew?_failAll (0x0A, core) hit s1 hcr hend ⟨(id, cr), List.mem_filter.2 ⟨hmem, ?_⟩, rfl⟩
    simp only [Bool.and_eq_true, bne_iff_ne, List.any_eq_true, beq_iff_eq]
    exact ⟨hmode, x, hx, hcore, hxid⟩

end Sys2Proof.Machine
end

section
/-! PROOF. Die retirement (R22): the write of PKG_RETIRE, and the end of the retirement. -/

namespace Sys2Proof.Machine

variable (s : State)

/- The write of PKG_RETIRE -/
theorem State.mem_liveDies (d : Nat) : d ∈ s.liveDies ↔ d < 4 ∧ s.dieState d = 2 := by
  simp [State.liveDies]
/-- Beside a LIVE die there is another exactly when more than one is LIVE. -/
theorem State.liveDies_two {d : Nat} (hd : d < 4) (hlive : s.dieState d = 2) :
    1 < s.liveDies.length ↔ ∃ x, x < 4 ∧ x ≠ d ∧ s.dieState x = 2 := by
  have hnodup : s.liveDies.Nodup := List.Pairwise.filter _ List.nodup_range
  have hmem : d ∈ s.liveDies := (s.mem_liveDies d).2 ⟨hd, hlive⟩
  have hlen := List.length_erase_of_mem hmem
  constructor
  · intro h
    obtain ⟨x, hx⟩ := List.exists_mem_of_length_pos (l := s.liveDies.erase d) (by omega)
    have hx' := (hnodup.mem_erase_iff).1 hx
    obtain ⟨h4, h2⟩ := (s.mem_liveDies x).1 hx'.2
    exact ⟨x, h4, hx'.1, h2⟩
  · rintro ⟨x, h4, hne, h2⟩
    have := List.length_pos_of_mem ((hnodup.mem_erase_iff).2 ⟨hne, (s.mem_liveDies x).2 ⟨h4, h2⟩⟩)
    omega

/-- The refusal of PKG_RETIRE sets its bit and nothing else (R22). -/
theorem State.rejectRetire_spec : s.rejectRetire.retiring = s.retiring ∧ s.rejectRetire.regBit rPkgLive 10 = true ∧
    s.rejectRetire.die = s.die :=
  ⟨State.setReg_retiring _ _ _, State.regBit_setRegBit_same s true (by decide), State.setReg_die _ _ _⟩

/-- A PKG_RETIRE write is ignored while the register does not answer; it starts a retirement, or is refused. -/
theorem dieRetirement_starts (v : Word) :
    let die := v.toNat % 4
    let fit : Prop := v.toNat / 2 ^ 8 % 2 ^ 8 = 0xD1 ∧ s.feature fRETIRE = true ∧ s.retiring = none ∧ s.dieState die = 2 ∧
      ∃ x, x < 4 ∧ x ≠ die ∧ s.dieState x = 2
    let open' : Prop := s.pfOpen 0x18 = true
    (¬open' → exec (.dieRetirement v) s = .next s) ∧
    (open' → fit → ∃ t, exec (.dieRetirement v) s = .next t ∧ t.retiring = some (die, v.getLsbD 2) ∧ t.regBit rPkgLive 9 = true) ∧
    (open' → ¬fit → ∃ t, exec (.dieRetirement v) s = .next t ∧ t.retiring = s.retiring ∧ t.regBit rPkgLive 10 = true ∧ t.die = s.die) := by
  intro die fit open'
  have hexec : exec (.dieRetirement v) s = execDieRetirement v s := rfl
  unfold execDieRetirement at hexec
  have hd : die < 4 := Nat.mod_lt _ (by decide)
  have hkey : Word.bits v 15 8 = v.toNat / 2 ^ 8 % 2 ^ 8 := by rw [Word.bits, Nat.shiftRight_eq_div_pow]
  extract_lets d on at hexec
  have hdie : d = die := rfl
  clear_value d
  subst hdie
  rw [hkey] at hexec
  refine ⟨fun hclosed => ?_, fun hopen ⟨hmagic, hfeature, hidle, hlive, hother⟩ => ?_, fun hopen hbad => ?_⟩
  · rw [hexec, State.served_ignored _ _ _ (Bool.not_eq_true _ ▸ hclosed)]
  · have hmany := (s.liveDies_two hd hlive).2 hother
    rw [State.served_open _ _ _ hopen] at hexec
    extract_lets s1 s2 at hexec
    rw [if_neg (by simp [hfeature, hidle, hlive]; omega)] at hexec
    have hwork : TierWork s1 s2 := by
      refine .foldl (fun s (e : Nat × Crew) => ?_) _ s1
      split
      · exact .discardCrew s e.1
      · exact (CrewWork.failCrew s e.1 0xE6 0xFFFF).tierWork
    refine ⟨_, hexec, hwork.retiring, ?_⟩
    show (s2.reg rPkgLive).getLsbD 9 = true
    rw [hwork.low _ (by decide)]
    exact State.regBit_setRegBit_same { s with retiring := some (die, v.getLsbD 2) } true (by decide)
  · rw [State.served_open _ _ _ hopen, if_pos] at hexec
    · exact ⟨_, hexec, s.rejectRetire_spec⟩
    · -- what is not fit fails one of the checks
      refine Classical.byContradiction fun hpass => ?_
      simp only [Bool.or_eq_true, decide_eq_true_eq, Bool.not_eq_true', not_or, Bool.not_eq_false, Nat.not_le, Classical.not_not,
        Option.isSome_iff_ne_none, ne_eq] at hpass
      obtain ⟨⟨⟨⟨hmagic, hfeature⟩, hidle⟩, hlive⟩, hmany⟩ := hpass
      exact hbad ⟨hmagic, hfeature, hidle, hlive, (s.liveDies_two hd hlive).1 hmany⟩

/- The end of a retirement -/
/-- The die states are kept; and while no frame has a backing copy to be written, nothing is found lacking. -/
structure MoveWork (s t : State) : Prop where
  die : t.die = s.die
  bare : (∀ f, (s.frame f).NoBacking) → t.wants = s.wants ∧ ∀ f, (t.frame f).NoBacking

theorem MoveWork.refl (s : State) : MoveWork s s := ⟨rfl, fun h => ⟨rfl, h⟩⟩
theorem MoveWork.trans {s t u : State} (h : MoveWork s t) (h' : MoveWork t u) : MoveWork s u := by
  refine ⟨h'.die.trans h.die, fun hs => ?_⟩
  obtain ⟨hwants, ht⟩ := h.bare hs
  obtain ⟨hwants', hu⟩ := h'.bare ht
  exact ⟨hwants'.trans hwants, hu⟩
theorem TierWork.moveWork {s t : State} (h : TierWork s t) : MoveWork s t := ⟨h.die, fun hs => ⟨h.wants, fun f => h.bare f (hs f)⟩⟩

/-- A translation that is asked for touches no die state. -/
theorem State.askIommu_die (o : Requester) (n : Option Nat) (a : Nat) (perm : Perm) : (s.askIommu o n a perm).1.die = s.die := by
  unfold State.askIommu
  dsimp only
  split
  · rfl
  · split
    · rfl
    · split <;> rfl
theorem State.backPages_die (e : Frame) (perm : Perm) : (s.backPages e perm).1.die = s.die := by
  unfold State.backPages
  refine List.foldlRecOn (motive := fun x : State × List (Option Nat) => x.1.die = s.die) _ _ rfl fun x hx i _ => ?_
  obtain ⟨t, l⟩ := x
  exact (t.askIommu_die _ _ _ _).trans hx
theorem State.needBacking_die (e : Frame) : (s.needBacking e).die = s.die := by
  unfold State.needBacking
  split <;> rfl
theorem State.toBacking_die (e : Frame) : (s.toBacking e).1.die = s.die := by
  unfold State.toBacking
  split
  · rfl
  · split
    · have hpages := s.backPages_die e .w
      split
      next u ps heq =>
      rw [heq] at hpages
      refine Eq.trans ?_ hpages
      refine List.foldlRecOn (motive := fun t : State => t.die = u.die) _ _ rfl fun t ht x _ => ?_
      dsimp only
      split <;> exact ht
    · exact ((TierWork.askBacking (s.needBacking e) e true).trans (.copyRange _ _ _ _)).die.trans (s.needBacking_die e)
    · rfl

/-- A frame of a die that retires moves, goes to its backing copy or is RETIRED (R22). -/
theorem MoveWork.moveFrame (f : Nat) : MoveWork s (s.moveFrame f) := by
  unfold State.moveFrame
  extract_lets s1 e
  have h1 : TierWork s s1 := .flushFrame s f true
  split
  · exact h1.moveWork
  · next hres =>
    have hstate : (s1.frame f).state = .resident := by simpa using hres
    split
    · exact (h1.trans (.retireFrame _ _ _ _)).moveWork
    · split
      · refine (h1.trans (.trans ?_ (.freeHbm _ _))).moveWork
        exact ((TierWork.copyRange s1 _ _ _).trans (.useHbm _ _ _)).setFrame f id
      · split
        · exact (h1.trans ((TierWork.refl s1).setFrame f fun _ => .inr rfl)).moveWork
        · next hkind =>
          have hdie : (if e.dirty = true then s1.toBacking e else (s1, true)).1.die = s1.die := by
            split
            · exact s1.toBacking_die e
            · rfl
          split
          next u ok heq =>
          rw [heq] at hdie
          refine ⟨hdie.trans h1.die, fun hs => ?_⟩
          -- a RESIDENT frame with a backing copy: there is one
          rcases h1.bare f (hs f) with h0 | h0
          · exact absurd h0 hkind
          · rw [hstate] at h0; cases h0

/-- Write-backs, drops and clearings at the start of a retirement's end (R22). -/
theorem TierWork.clearDie (d : Nat) (mine : Nat → Gran → Bool) :
    TierWork s ((List.range 16).foldl (fun s w => s.clearScratch d w) ((s.writeBackAll mine).dropGrans mine)) :=
  ((TierWork.writeBackAll s mine).trans (.dropGrans _ _)).trans (.foldl (fun s w => .clearScratch s d w) _ _)

/-- The frames of a die that is OFF from now on leave it, one after the other (R22). -/
theorem MoveWork.leave (l : List (Nat × Frame)) :
    MoveWork s (l.foldl (fun (s : State) (e : Nat × Frame) =>
      match e.2.state with
      | .resident => s.moveFrame e.1
      | _ => ((s.setFrame e.1 { e.2 with state := .retired }).freeHbm e.2.hbm).countMig e.1 false) s) := by
  refine List.foldlRecOn (motive := MoveWork s) _ _ (.refl s) fun t ht e _ => ht.trans ?_
  split
  · exact .moveFrame t e.1
  · exact ((((TierWork.refl t).setFrame e.1 fun _ => .inr rfl).trans (.freeHbm _ _)).trans (.countMig _ _ _)).moveWork

/-- The end of a retirement, step by step: the die is cleared, takes its new state, and its frames leave it unless it stays a
home. -/
theorem State.retireDone_eq {d : Nat} {keep : Bool} (h : s.retiring = some (d, keep)) :
    ∃ t u, TierWork s t ∧ MoveWork { t with die := Map.set 0 t.die d (if keep then 1 else 0) } u ∧ (keep = true → u.wants = t.wants) ∧
      s.retireDone d = { u with retiring := none }.setRegBit rPkgLive 9 false := by
  unfold State.retireDone
  rw [h]
  refine ⟨_, _, .clearDie s d fun k _ => keyDie k == d, ?_, fun hk => ?_, if_neg fun hne => hne rfl⟩
  · split
    · exact .refl _
    · exact .trans (.leave _ _) (TierWork.modTier _ _ rfl).moveWork
  · rw [if_pos hk]

/-- What the end of a retirement leaves: its die stands in its new state, the others as they were, and while no frame has a
backing copy, or the die stays a home, nothing is found lacking. -/
theorem State.retireDone_spec {d : Nat} {keep : Bool} (h : s.retiring = some (d, keep)) :
    (s.retireDone d).retiring = none ∧ (s.retireDone d).regBit rPkgLive 9 = false ∧
    (∀ x, (s.retireDone d).dieState x = if x = d then (if keep then 1 else 0) else s.dieState x) ∧
    (keep = true ∨ (∀ f, (s.frame f).kind = 0) → (s.retireDone d).wants = s.wants) := by
  obtain ⟨t, u, ht, hu, hkeep, heq⟩ := s.retireDone_eq h
  rw [heq]
  refine ⟨rfl, State.regBit_setRegBit_same _ false (by decide), fun x => ?_, fun hcase => ?_⟩
  · show Map.get 0 u.die x = _
    rw [hu.die, Map.get_set, ht.die, State.dieState]
  · rcases hcase with hk | hbare
    · exact (hkeep hk).trans ht.wants
    · exact (hu.bare fun f => ht.bare f (.inl (hbare f))).1.trans ht.wants

/- An event that is done whole (R52) -/
/-- Asking for a translation sends or joins a request, and touches nothing else. -/
theorem State.askFor_rest (w : Want) :
    s.askFor w = { s with ats := (s.askFor w).ats, nextId := (s.askFor w).nextId, outbox := (s.askFor w).outbox } := by
  unfold State.askFor
  split
  · unfold State.askAts
    extract_lets new
    split
    · rfl
    · split
      next s1 heq =>
      cases heq
      split
      · rfl
      · dsimp only
        split <;> rfl
  · rfl
  · rfl
theorem State.askFor_foldl_rest (l : List Want) :
    ∃ as n out, l.foldl State.askFor s = { s with ats := as, nextId := n, outbox := out } := by
  refine List.foldlRecOn (motive := fun t : State => ∃ as n out, t = { s with ats := as, nextId := n, outbox := out }) _ _
    ⟨s.ats, s.nextId, s.outbox, rfl⟩ ?_
  rintro _ ⟨as, n, out, rfl⟩ w _
  exact ⟨_, _, _, State.askFor_rest _ w⟩

/-- An event of the collective die is done, nothing being found lacking, or it waits for what it lacks with its state unchanged. -/
theorem State.wholeEvent_cases (i : Instr) (f : State → State) :
    ∃ got ws, ((f { s with wants := [], answers := got }).wants = [] ∧
        s.wholeEvent i f = { f { s with wants := [], answers := got } with wants := s.wants, answers := s.answers, waits := ws }) ∨
      ((f { s with wants := [], answers := got }).wants ≠ [] ∧
        ⟨.event i, (f { s with wants := [], answers := got }).wants, got⟩ ∈ ws ∧
        ∃ as n out, s.wholeEvent i f = { s with waits := ws, ats := as, nextId := n, outbox := out }) := by
  unfold State.wholeEvent State.whole
  extract_lets mine old got rest x
  refine ⟨got, ?_⟩
  split
  · next h => exact ⟨_, .inl ⟨List.isEmpty_iff.1 h, rfl⟩⟩
  · next h =>
    exact ⟨_, .inr ⟨fun h0 => h (List.isEmpty_iff.2 h0), List.mem_append_right _ (List.mem_singleton.2 rfl),
      State.askFor_foldl_rest _ _⟩⟩

/-- The end of a retirement leaves its die in its new state, or waits whole for a translation its frames lack; it cannot lack one
where no frame has a backing copy, nor where the die stays a home. -/
theorem dieRetirementDone_ends (d : Nat) (keep : Bool) (h : s.retiring = some (d, keep)) :
    ∃ t, exec (.dieRetirementDone d) s = .next t ∧
      let done : Prop := t.retiring = none ∧ t.dieState d = (if keep then 1 else 0) ∧ t.regBit rPkgLive 9 = false ∧
        ∀ x, x ≠ d → t.dieState x = s.dieState x
      let lacks : Prop := t.retiring = s.retiring ∧ t.die = s.die ∧ t.mem = s.mem ∧ t.tier = s.tier ∧
        ∃ w ∈ t.waits, w.task = .event (.dieRetirementDone d) ∧ w.wants ≠ []
      (done ∨ lacks) ∧ (keep = true ∨ (∀ f, (s.frame f).kind = 0) → done) := by
  refine ⟨_, rfl, ?_⟩
  obtain ⟨got, ws, hcase⟩ := s.wholeEvent_cases (.dieRetirementDone d) (State.retireDone · d)
  obtain ⟨hret, hreg, hdie, hbare⟩ := State.retireDone_spec { s with wants := [], answers := got } h
  rcases hcase with ⟨-, heq⟩ | ⟨hwants, hwait, as, n, out, heq⟩
  · rw [heq]
    intro done lacks
    have hdone : done := ⟨hret, (hdie d).trans (if_pos rfl), hreg, fun x hx => (hdie x).trans (if_neg hx)⟩
    exact ⟨.inl hdone, fun _ => hdone⟩
  · rw [heq]
    exact ⟨.inr ⟨rfl, rfl, rfl, rfl, _, hwait, rfl, hwants⟩, fun hk => absurd (hbare hk) hwants⟩

end Sys2Proof.Machine
end

section
/-! PROOF. Lanes and ports (R35, R36), and what the package's events do, put together. -/

namespace Sys2Proof.Machine

variable (s : State) {port : Nat}

/-- A port that comes up has its bit set, and is no longer retraining once it has been taken off the list. -/
theorem State.portUp_spec (hp : port < 36) :
    (s.portUp port true).regBit rUalState port = true ∧ (s.portUp port true).retrain = s.retrain := by
  have hwork : TierWork (s.setRegBit rUalState port true) (s.portUp port true) :=
    (TierWork.pumpFetch (s.setRegBit rUalState port true)).trans (.supply _ _ _)
  refine ⟨?_, hwork.retrain⟩
  rw [State.regBit, hwork.low _ (by decide)]
  exact s.regBit_setRegBit_same true (by omega)

theorem State.sparesLeft_lt : s.regBits rUalState 47 44 < 16 := Word.bits_lt _ 47 44

theorem State.portUp_false : s.portUp port false = s.setRegBit rUalState port false := by
  unfold State.portUp
  exact if_neg Bool.false_ne_true
@[simp] theorem State.setRegBits_portDown (k hi lo v : Nat) : (s.setRegBits k hi lo v).portDown = s.portDown :=
  State.setReg_portDown _ _ _
@[simp] theorem State.setRegBit_portDown (k i : Nat) (b : Bool) : (s.setRegBit k i b).portDown = s.portDown :=
  State.setReg_portDown _ _ _
@[simp] theorem State.setRegBit_laneUsed (k i : Nat) (b : Bool) : (s.setRegBit k i b).laneUsed = s.laneUsed :=
  State.setReg_laneUsed _ _ _

/-- A port goes onto its group's spare lane. -/
theorem State.retrain_spec (q port : Nat) :
    let t := State.later { s with laneUsed := q :: s.laneUsed, retrain := port :: s.retrain.filter (· != port) }
      (.portRetrainDone port true)
    t.regs = s.regs ∧ port ∈ t.retrain ∧ q ∈ t.laneUsed ∧ t.portDown = s.portDown :=
  ⟨rfl, List.mem_cons_self, List.mem_cons_self, rfl⟩
/-- The group's spare lane serves: it is used, one lane less is left, and the port retrains. -/
theorem State.laneFails_spare (hused : s.laneUsed.contains (port / 4) = false) (hleft : s.regBits rUalState 47 44 ≠ 0) :
    (s.laneFails port).regs =
      ((s.setRegBit rUalState port false).setRegBits rUalState 47 44 (s.regBits rUalState 47 44 - 1)).regs ∧
    port ∈ (s.laneFails port).retrain ∧ port / 4 ∈ (s.laneFails port).laneUsed ∧ (s.laneFails port).portDown = s.portDown := by
  unfold State.laneFails
  dsimp only
  rw [State.portUp_false, State.setRegBit_laneUsed, hused, decide_eq_false hleft, if_neg (by decide)]
  obtain ⟨hregs, hret, hlane, hdown⟩ := State.retrain_spec
    ((s.setRegBit rUalState port false).setRegBits rUalState 47 44 (s.regBits rUalState 47 44 - 1)) (port / 4) port
  exact ⟨hregs, hret, hlane, hdown.trans (by simp)⟩
/-- No spare lane is there: the port is down. -/
theorem State.laneFails_down (h : ¬(s.laneUsed.contains (port / 4) = false ∧ s.regBits rUalState 47 44 ≠ 0)) :
    (s.laneFails port).regs = (s.setRegBit rUalState port false).regs ∧ port ∈ (s.laneFails port).portDown := by
  have hnone : (s.laneUsed.contains (port / 4) || decide (s.regBits rUalState 47 44 = 0)) = true := by
    rw [Bool.or_eq_true, decide_eq_true_eq]
    refine Classical.byContradiction fun hn => ?_
    rw [not_or, Bool.not_eq_true] at hn
    exact h hn
  unfold State.laneFails
  dsimp only
  rw [State.portUp_false, State.setRegBit_laneUsed, if_pos hnone]
  exact ⟨rfl, List.mem_cons_self⟩

/-- A lane that fails takes its port out of service, to retrain where its group's spare lane is there and down where it is not. -/
theorem State.laneFails_spec (hp : port < 36) :
    let t := s.laneFails port
    let spare : Prop := s.laneUsed.contains (port / 4) = false ∧ s.regBits rUalState 47 44 ≠ 0
    t.regBit rUalState port = false ∧
    (spare → port ∈ t.retrain ∧ port / 4 ∈ t.laneUsed ∧ t.regBits rUalState 47 44 = s.regBits rUalState 47 44 - 1 ∧
      t.portDown = s.portDown) ∧
    (¬spare → port ∈ t.portDown) := by
  intro t spare
  have hbit := s.regBit_setRegBit_same (k := rUalState) false (i := port) (by omega)
  by_cases hs : spare
  · obtain ⟨hregs, hretrain, hused, hdown⟩ := s.laneFails_spare hs.1 hs.2
    have hcount := Nat.mod_eq_of_lt (Nat.lt_of_le_of_lt (Nat.sub_le _ 1) s.sparesLeft_lt)
    refine ⟨?_, fun _ => ⟨hretrain, hused, ?_, hdown⟩, fun hn => absurd hs hn⟩
    · rw [State.regBit_congr hregs, State.regBit_setRegBits_other _ _ (by decide) (by decide) (.inr (.inl (by omega)))]
      exact hbit
    · rw [State.regBits_congr hregs, State.regBits_setRegBits_same _ _ (by decide) (by decide)]
      exact hcount
  · obtain ⟨hregs, hdown⟩ := s.laneFails_down hs
    exact ⟨(State.regBit_congr hregs _ _).trans hbit, fun h => absurd h hs, fun _ => hdown⟩

/-- A port fails a lane, and a port retrains. -/
theorem ports_retrain (hp : port < 36) (ok : Bool) :
    let group := port / 4
    let left := s.regBits rUalState 47 44
    let spare : Prop := s.laneUsed.contains group = false ∧ left ≠ 0
    let fails (t : State) : Prop := t.regBit rUalState port = false ∧
      (spare → port ∈ t.retrain ∧ group ∈ t.laneUsed ∧ t.regBits rUalState 47 44 = left - 1 ∧ t.portDown = s.portDown) ∧
      (¬spare → port ∈ t.portDown)
    (s.portDown.contains port = false → s.regBit rUalState port = true →
      ∃ t, exec (.laneErrorThreshold port) s = .next t ∧ fails t) ∧
    (s.retrain.contains port = true → ∃ t, exec (.portRetrainDone port ok) s = .next t ∧
      (ok = true → t.regBit rUalState port = true ∧ port ∉ t.retrain) ∧ (ok = false → fails t)) := by
  intro group left spare fails
  refine ⟨fun hdown hup => ⟨s.laneFails port, ?_, s.laneFails_spec hp⟩, fun hret => ?_⟩
  · show execLaneErrorThreshold port s = _
    rw [execLaneErrorThreshold, if_neg (by rw [hdown, hup, decide_eq_false (by omega)]; decide)]
  · have hexec : exec (.portRetrainDone port ok) s = execPortRetrainDone port ok s := rfl
    rw [execPortRetrainDone, if_neg (by rw [hret]; decide)] at hexec
    refine ⟨_, hexec, fun hok => ?_, fun hok => ?_⟩
    · subst hok
      obtain ⟨hbit, hlist⟩ := State.portUp_spec { s with retrain := s.retrain.filter (· != port) } hp
      refine ⟨hbit, ?_⟩
      rw [if_pos rfl, hlist]
      simp
    · subst hok
      exact State.laneFails_spec { s with retrain := s.retrain.filter (· != port) } hp

/-- Settles O52: each clause is one event of the package, whose own lemma says what it leaves. -/
theorem packageEvents : Obligations.PackageEvents := by
  intro s core die slice port d v error dies ok
  exact ⟨coldReset_leaves s, warmReset_ignored s, warmReset_runs s, bootStageComplete_leads s error dies,
    spareCoreRemap_takes s core, sliceCopyDone_ends s die slice, coreFailure_ends s core, dieRetirement_starts s v,
    dieRetirementDone_ends s d, fun hp => ports_retrain s hp ok⟩

end Sys2Proof.Machine
end

section
/-! SUPPORT. Little-endian numbers in memory (R2): what one reads after a number has been put down, inside it and beside it. -/

namespace Sys2Proof.Machine

theorem length_leBytes (n v : Nat) : (leBytes n v).length = n := by
  induction n generalizing v with
  | zero => rfl
  | succ n ih => rw [leBytes, List.length_cons, ih]

theorem getD_leBytes {n j : Nat} (v : Nat) (hj : j < n) : (leBytes n v).getD j 0 = BitVec.ofNat 8 (v / 256 ^ j) := by
  induction n generalizing v j with
  | zero => omega
  | succ n ih =>
    cases j with
    | zero => simp [leBytes]
    | succ j => rw [leBytes, List.getD_cons_succ, ih _ (by omega), Nat.div_div_eq_div_mul, Nat.pow_succ']

variable (s : State)

theorem State.byteAt_bytes (a : Nat) {n i : Nat} (h : i < n) : byteAt (s.bytes a n) i = (s.byte (a + i)).toNat := by
  simp [byteAt, State.bytes, List.getD, h]

theorem State.leAt_bytes_succ (a : Nat) {n i m m' : Nat} (h : i + 1 + n ≤ m) (h' : i + n ≤ m') :
    leAt (s.bytes a m) (i + 1) n = leAt (s.bytes (a + 1) m') i n := by
  induction n generalizing i with
  | zero => rfl
  | succ n ih =>
    rw [leAt, leAt, ih (by omega) (by omega), s.byteAt_bytes a (by omega), s.byteAt_bytes (a + 1) (by omega),
      show a + 1 + i = a + (i + 1) by omega]

theorem State.num_succ (a n : Nat) : s.num a (n + 1) = (s.byte a).toNat + 256 * s.num (a + 1) n := by
  rw [State.num, leAt, s.byteAt_bytes a (by omega), s.leAt_bytes_succ a (m' := n) (by omega) (by omega)]
  rfl

/-- A number depends on its own bytes alone. -/
theorem State.num_congr {s t : State} {a n : Nat} (h : ∀ i, i < n → t.byte (a + i) = s.byte (a + i)) :
    t.num a n = s.num a n := by
  induction n generalizing a with
  | zero => rfl
  | succ n ih =>
    rw [State.num_succ, State.num_succ, show t.byte a = s.byte a from h 0 (by omega), ih fun i hi => ?_]
    rw [Nat.add_assoc, Nat.add_comm 1 i]
    exact h (i + 1) (by omega)

/-- Digits j to j + m of a number that has been put down. -/
theorem State.num_putNum_inside (a v : Nat) {n j m : Nat} (h : j + m ≤ n) :
    (s.putNum a n v).num (a + j) m = v / 256 ^ j % 256 ^ m := by
  induction m generalizing j with
  | zero => rw [Nat.pow_zero, Nat.mod_one]; rfl
  | succ m ih =>
    have hbyte : (s.putNum a n v).byte (a + j) = BitVec.ofNat 8 (v / 256 ^ j) := by
      rw [State.putNum, State.byte_putBytes, length_leBytes, if_pos (by omega), Nat.add_sub_cancel_left,
        getD_leBytes v (by omega)]
    rw [State.num_succ, hbyte, Nat.add_assoc, ih (by omega), BitVec.toNat_ofNat,
      Nat.pow_succ' (n := m), Nat.mod_mul, Nat.div_div_eq_div_mul, ← Nat.pow_succ]
theorem State.num_putNum_same (a n v : Nat) : (s.putNum a n v).num a n = v % 256 ^ n := by
  have h := s.num_putNum_inside a v (n := n) (j := 0) (m := n) (by omega)
  rwa [Nat.pow_zero, Nat.div_one] at h
/-- A number that lies apart is kept. -/
theorem State.num_putNum_other {a n b m : Nat} (v : Nat) (h : b + m ≤ a ∨ a + n ≤ b) :
    (s.putNum a n v).num b m = s.num b m :=
  State.num_congr fun i hi => by
    rw [State.putNum, State.byte_putBytes, length_leBytes, if_neg (by omega)]

/- Sequence and launch records (R131, R142) -/
theorem State.seqNum_congr {s t : State} (h : t.mem = s.mem) (i off n : Nat) : t.seqNum i off n = s.seqNum i off n :=
  State.num_congr fun _ _ => congrArg (Memory.read · _) h
theorem State.seqState_congr {s t : State} (h : t.mem = s.mem) (i : Nat) : t.seqState i = s.seqState i :=
  congrArg (· % 16) (State.seqNum_congr h i 0 8)
theorem State.launchNum_congr {s t : State} (h : t.mem = s.mem) (t' i off n : Nat) :
    t.launchNum t' i off n = s.launchNum t' i off n :=
  State.num_congr fun _ _ => congrArg (Memory.read · _) h

theorem State.seqNum_putSeq_same (i off n v : Nat) : (s.putSeq i off n v).seqNum i off n = v % 256 ^ n :=
  s.num_putNum_same _ n v
theorem State.seqNum_putSeq_other (i v : Nat) {off n off' m : Nat} (h : off' + m ≤ off ∨ off + n ≤ off') :
    (s.putSeq i off n v).seqNum i off' m = s.seqNum i off' m :=
  s.num_putNum_other v (by simp only [seqKey]; omega)

/-- A record's state word gives its state and its reason. -/
theorem State.setSeqState_spec (i : Nat) {st reason : Nat} (hold : Bool) (hst : st < 16) (hr : reason < 256) :
    (s.setSeqState i st reason hold).seqState i = st ∧ (s.setSeqState i st reason hold).seqNum i 2 1 = reason := by
  have hb : hold.toNat ≤ 1 := Bool.toNat_le hold
  refine ⟨?_, ?_⟩
  · rw [State.seqState, State.setSeqState, State.seqNum_putSeq_same]
    omega
  · refine (s.num_putNum_inside (seqKey (128 * i + 0)) _ (n := 8) (j := 2) (m := 1) (by decide)).trans ?_
    omega
/-- The rest of a record is kept as its state word is written. -/
theorem State.seqNum_setSeqState (i st reason : Nat) (hold : Bool) {off m : Nat} (h : 8 ≤ off) :
    (s.setSeqState i st reason hold).seqNum i off m = s.seqNum i off m :=
  s.seqNum_putSeq_other i _ (by omega)

/-- A launch record's state word gives its state and its reason. -/
theorem State.setLaunch_spec (t i : Nat) {st reason : Nat} (hst : st < 16) (hr : reason < 256) :
    (s.setLaunch t i st reason).launchState t i = st ∧ (s.setLaunch t i st reason).launchNum t i 2 1 = reason := by
  refine ⟨?_, ?_⟩
  · rw [State.launchState]
    refine (congrArg (· % 16) (s.num_putNum_same (launchKey (32768 * t + 64 * i)) 8 _)).trans ?_
    omega
  · refine (s.num_putNum_inside (launchKey (32768 * t + 64 * i)) _ (n := 8) (j := 2) (m := 1) (by decide)).trans ?_
    omega

end Sys2Proof.Machine
end

section
/-! SUPPORT. An event that waits for nothing (R52), and counts in registers. -/

namespace Sys2Proof.Machine

variable (s : State)

/-- The state as an act finds it that nothing has come for (R52). -/
def State.unaided (s : State) : State := { s with wants := [], answers := [] }

/-- An event that does not wait, and finds nothing lacking, is done by its own operation. -/
theorem State.wholeEvent_untried {i : Instr} (f : State → State) (h : s.untried (.event i)) (hdone : (f s.unaided).wants = []) :
    s.wholeEvent i f = { f s.unaided with wants := s.wants, answers := s.answers } := by
  have hnone : s.waits.find? (fun w => w.task == .event i && (!(Task.event i).isEvent || w.wants.isEmpty)) = none := by
    refine List.find?_eq_none.2 fun w hw => ?_
    simp [h w hw]
  unfold State.wholeEvent State.whole
  dsimp only
  rw [hnone]
  exact congrArg Prod.fst (if_pos (List.isEmpty_iff.2 hdone))

/-- What nothing of it has come for waits on as before. -/
theorem State.supply_none (p : Want → Bool) (got : List AtcEntry) (h : ∀ w ∈ s.waits, w.wants.any p = false) :
    s.supply p got = s := by
  unfold State.supply
  extract_lets hit left now
  have hnow : now = [] := by
    have hfilter : s.waits.filter hit = [] := List.filter_eq_nil_iff.2 fun w hw => by simp [hit, h w hw]
    simp only [now, hfilter, List.filterMap_nil]
  have hmap : s.waits.map (fun w => if hit w then left w else w) = s.waits :=
    (List.map_congr_left fun w hw => if_neg (by simp [hit, h w hw])).trans (List.map_id _)
  rw [hnow, hmap]
  rfl

theorem mem_insertDue (g : Nat) (i : Instr) (l : List (Nat × Instr)) : (g, i) ∈ insertDue g i l := by
  induction l with
  | nil => exact List.mem_singleton.2 rfl
  | cons e l ih =>
    rw [insertDue]
    split
    · exact List.mem_cons_self
    · exact List.mem_cons_of_mem _ ih

theorem State.regBits_bump {k hi lo : Nat} (n : Nat) (hlo : lo ≤ hi) (hhi : hi < 64) :
    (s.bump k hi lo n).regBits k hi lo = (s.regBits k hi lo + n) % 2 ^ (hi + 1 - lo) :=
  s.regBits_setRegBits_same _ hlo hhi
theorem State.reg_bump_other {k j : Nat} (hi lo n : Nat) (h : j ≠ k) : (s.bump k hi lo n).reg j = s.reg j :=
  (s.reg_setRegBits _ _ _ _ _).trans (if_neg h)

end Sys2Proof.Machine
end

section
/-! PROOF. Passes of the Pilot (R127), and gates that have waited (R147). -/

namespace Sys2Proof.Machine

variable (s : State)

/-- With no fetch waiting, and no act waiting for a HBM frame, there is nothing to try again. -/
theorem State.pumpFetch_idle (hfetch : s.tier.fetch = []) (hroom : ∀ w ∈ s.waits, .room ∉ w.wants) : s.pumpFetch = s := by
  rw [State.pumpFetch, hfetch]
  refine s.supply_none _ _ fun w hw => List.any_eq_false.2 fun x hx hroom' => hroom w hw ?_
  rwa [← eq_of_beq hroom']

/-- What a pass does first: it counts, and the next one is due (R127). -/
def State.passBegun (s : State) : State :=
  (s.bump rPilotStat 31 0).at' (cycleOf (s.timeNs + s.regBits rPilotCtl 15 0)) .schedPass

theorem State.reg_passBegun {k : Nat} (h : k ≠ rPilotStat) : s.passBegun.reg k = s.reg k := s.reg_bump_other 31 0 1 h

/-- A pass on a device without partitions, fetches and records is its count, the pass to come, and the system's crews. -/
theorem State.pass_idle (hcommit : s.committed = false) (hparts : ∀ q, q < 32 → s.partEnabled q = false)
    (hfetch : s.tier.fetch = []) (hrecords : s.pilot.records = []) (hroom : ∀ w ∈ s.waits, .room ∉ w.wants) :
    s.pass = s.passBegun.systemCrews := by
  have hctl : (s.bump rPilotStat 31 0).regBits rPilotCtl 15 0 = s.regBits rPilotCtl 15 0 :=
    congrArg (Word.bits · 15 0) (s.reg_bump_other 31 0 1 (by decide))
  have hbegun : (s.bump rPilotStat 31 0).at' (cycleOf ((s.bump rPilotStat 31 0).timeNs +
      (s.bump rPilotStat 31 0).regBits rPilotCtl 15 0)) .schedPass = s.passBegun := by rw [hctl]; rfl
  have hrecords' : s.passBegun.pumpRecords = s.passBegun := congrArg (List.foldl State.tryRecord s.passBegun) hrecords
  have hcommit' : s.passBegun.committed = false := by
    rw [State.committed, State.regBit, s.reg_passBegun (by decide)]
    exact hcommit
  have hparts' : (List.range 32).filter s.passBegun.partEnabled = [] := by
    refine List.filter_eq_nil_iff.2 fun q hq => ?_
    rw [State.partEnabled, State.regBit, s.reg_passBegun (by simp only [rPartCtl, rPart, rPilotStat]; omega)]
    exact (Bool.eq_false_iff.1 (hparts q (List.mem_range.1 hq)))
  have hpump : s.passBegun.pumpFetch = s.passBegun := s.passBegun.pumpFetch_idle hfetch hroom
  unfold State.pass
  dsimp only
  rw [hbegun, hrecords', hcommit', if_neg Bool.false_ne_true, hparts']
  simp only [List.foldl_nil, hpump]

/-- A pass counts, is followed by the next, and ends with the system's crews (R127, R401). -/
theorem schedPass_idle (hstage : 7 ≤ s.stage) (hboot : s.bootError = 0) (htrip : s.tripped = false)
    (hcommit : s.committed = false) (hparts : ∀ q, q < 32 → s.partEnabled q = false) (hfetch : s.tier.fetch = [])
    (hrecords : s.pilot.records = []) (hroom : ∀ w ∈ s.waits, .room ∉ w.wants) :
    exec .schedPass s = .next s.passBegun.systemCrews ∧
      s.passBegun.regBits rPilotStat 31 0 = (s.regBits rPilotStat 31 0 + 1) % 2 ^ 32 ∧
      (cycleOf (s.timeNs + s.regBits rPilotCtl 15 0), .schedPass) ∈ s.passBegun.agenda ∧
      s.passBegun.mem = s.mem ∧ s.passBegun.ctxs = s.ctxs := by
  refine ⟨?_, s.regBits_bump 1 (by decide) (by decide), mem_insertDue _ _ _, rfl, rfl⟩
  show execSchedPass s = _
  rw [execSchedPass, if_pos (by simp [hstage, hboot, htrip]), s.pass_idle hcommit hparts hfetch hrecords hroom]

/-- A gate that has waited GATE_WAIT_US is tried again as the wait runs out (R147). -/
theorem gateWaitExpiry_retries (p : Nat) :
    exec (.gateWaitExpiry p) s = .next (if s.partEnabled p = true ∧
      (∃ e ∈ s.pilot.gates, e.2 + 1000 * s.regBits rPilotCtl 47 32 ≤ s.timeNs) then s.placePart p else s) := by
  show execGateWaitExpiry p s = _
  simp only [execGateWaitExpiry, Bool.and_eq_true, List.any_eq_true, decide_eq_true_eq]

end Sys2Proof.Machine
end

section
/-! PROOF. Writes of plan registers (R128, R129). -/

namespace Sys2Proof

theorem Word.bits_eq (w : Word) (hi lo : Nat) : Word.bits w hi lo = w.toNat / 2 ^ lo % 2 ^ (hi + 1 - lo) := by
  rw [Word.bits, Nat.shiftRight_eq_div_pow]

/-- The bits that a mask names are written, the others kept (R4). -/
def Word.merge (m old new : Word) : Word := (old &&& ~~~ m) ||| (new &&& m)

theorem Word.getLsbD_merge (m old new : Word) {i : Nat} (h : m.getLsbD i = true) :
    (Word.merge m old new).getLsbD i = new.getLsbD i := by
  simp [Word.merge, h]
/-- A field that lies whole in the mask takes the new value. -/
theorem Word.bits_merge (m old new : Word) {hi lo : Nat} (h : ∀ i, i ≤ hi → lo ≤ i → m.getLsbD i = true) :
    Word.bits (Word.merge m old new) hi lo = Word.bits new hi lo := by
  refine Nat.eq_of_testBit_eq fun j => ?_
  rw [Word.testBit_bits, Word.testBit_bits]
  by_cases hj : j < hi + 1 - lo
  · rw [Word.getLsbD_merge m old new (h (lo + j) (by omega) (by omega))]
  · rw [decide_eq_false hj, Bool.false_and, Bool.false_and]
theorem Word.merge_ones (old new : Word) : Word.merge 0xFFFFFFFFFFFFFFFF old new = new :=
  BitVec.eq_of_getLsbD_eq fun i hi => Word.getLsbD_merge _ old new (by
    rw [show (0xFFFFFFFFFFFFFFFF : Word) = BitVec.allOnes 64 from rfl, BitVec.getLsbD_allOnes]; exact decide_eq_true hi)

namespace Machine

variable (s : State) {n : Nat}

theorem State.pfOpen_of_inService (off : Nat) (h : s.inService = true) : s.pfOpen off = true := by
  rw [State.pfOpen, h, Bool.true_or]
theorem State.pfOpen_of_boot (off : Nat) (hboot : s.bootError = 0) (hstage : s.stage < 8) : s.pfOpen off = false := by
  simp [State.pfOpen, State.inService, hboot, hstage]

/-- A write to a plan register in service (R26). -/
theorem planWrite_served (off : Nat) (v : Word) (h : s.inService = true) :
    exec (.planWrite n off v) s = .next (s.planWrite n off v) :=
  congrArg Host.Outcome.next (s.served_open _ _ (s.pfOpen_of_inService _ h))
/-- Before that it is ignored. -/
theorem planWrite_ignored (off : Nat) (v : Word) (hboot : s.bootError = 0) (hstage : s.stage < 8) :
    exec (.planWrite n off v) s = .next s :=
  congrArg Host.Outcome.next (s.served_ignored _ _ (s.pfOpen_of_boot _ hboot hstage))

/-- REJECT of a plan (R129). -/
def State.rejectPlan (s : State) (n : Nat) : State := s.setRegBit (rPlan n 0) 62 true

theorem State.rejectPlan_spec (n : Nat) : (s.rejectPlan n).regBit (rPlan n 0) 62 = true ∧
    (s.rejectPlan n).planValid n = s.planValid n ∧ ∀ off, off ≠ 0 → (s.rejectPlan n).plan n off = s.plan n off := by
  refine ⟨s.regBit_setRegBit_same true (by decide), ?_, fun off hoff => ?_⟩
  · exact s.regBit_setRegBits_other _ (by decide) (by decide) (.inr (.inr (by decide)))
  · exact (s.reg_setRegBits _ _ _ _ _).trans (if_neg (by simp only [rPlan]; omega))

/-- A kernel word of a plan: refused where the plan is valid and it would change, written else (R129). -/
theorem State.planWrite_kernel {k : Nat} (v : Word) (hk : k < 6) : s.planWrite n (0x30 + 8 * k) v =
    if s.planValid n = true ∧ s.plan n (0x30 + 8 * k) ≠ v then s.rejectPlan n else s.setReg (rPlan n (0x30 + 8 * k)) v := by
  have hmask : planMask (0x30 + 8 * k) = 0xFFFFFFFFFFFFFFFF := by
    rw [planMask, if_neg (by omega), if_neg (by omega), if_neg (by simp; omega), if_pos (by simp; omega)]
  have hnew : ∀ old, (old &&& ~~~ planMask (0x30 + 8 * k)) ||| (v &&& planMask (0x30 + 8 * k)) = v := fun old => by
    rw [hmask]; exact Word.merge_ones old v
  have hctl : ¬0x30 + 8 * k = 0 := by omega
  have hbases : (decide (0x30 + 8 * k = 0x10) || decide (0x30 + 8 * k = 0x18)) = false := by
    rw [decide_eq_false (by omega), decide_eq_false (by omega), Bool.or_self]
  unfold State.planWrite
  dsimp only
  rw [hnew, hmask, if_neg (show ¬(0xFFFFFFFFFFFFFFFF : Word) = 0 by decide), if_neg hctl, decide_eq_false hctl, Bool.false_and,
    if_neg Bool.false_ne_true, hbases, Bool.false_and, if_neg Bool.false_ne_true]
  simp only [Bool.and_eq_true, decide_eq_true_eq]
  rfl

theorem planWrite_kernel_spec {k : Nat} (v : Word) (hk : k < 6) (h : s.inService = true) :
    let off := 0x30 + 8 * k
    ∃ u, exec (.planWrite n off v) s = .next u ∧ (s.planValid n = false ∨ s.plan n off = v → u.plan n off = v) ∧
      (s.planValid n = true → s.plan n off ≠ v → u.plan n off = s.plan n off ∧ u.regBit (rPlan n 0) 62 = true) := by
  refine ⟨_, planWrite_served s _ v h, fun hfree => ?_, fun hvalid hchange => ?_⟩
  · have hpass : ¬(s.planValid n = true ∧ s.plan n (0x30 + 8 * k) ≠ v) := by
      rintro ⟨hvalid, hchange⟩
      rcases hfree with hinvalid | hsame
      · exact absurd (hvalid.symm.trans hinvalid) (by decide)
      · exact hchange hsame
    rw [s.planWrite_kernel v hk, if_neg hpass]
    exact (s.reg_setReg _ _ _).trans (if_pos rfl)
  · obtain ⟨hreject, -, hkept⟩ := s.rejectPlan_spec n
    rw [s.planWrite_kernel v hk, if_pos ⟨hvalid, hchange⟩]
    exact ⟨hkept _ (by omega), hreject⟩

/-- What PLAN_CTL must hold for VALID to be set: a valid tenant, a kernel, a batch of at most 1,024, tokens in a frame, and
frames in the pool (R129). -/
def State.planFits (s : State) (n : Nat) (v : Word) : Prop :=
  s.tenantValid (v.toNat / 2 ^ 40 % 64) = true ∧ v.toNat / 2 ^ 32 % 4 ≠ 0 ∧ v.toNat / 2 ^ 16 % 2 ^ 11 ≠ 0 ∧
    v.toNat / 2 ^ 16 % 2 ^ 11 ≤ 1024 ∧ v.toNat % 2 ^ 16 ≠ 0 ∧ s.planFrames n ≠ 0

/-- The check of R129 as the write makes it. -/
theorem State.planFits_iff (v : Word) : s.planFits n v ↔ (!s.tenantValid (v.toNat / 2 ^ 40 % 64) ||
    decide (v.toNat / 2 ^ 32 % 4 = 0) || decide (v.toNat / 2 ^ 16 % 2 ^ 11 = 0) || decide (v.toNat % 2 ^ 16 = 0) ||
    decide (1024 < v.toNat / 2 ^ 16 % 2 ^ 11) || decide (s.planFrames n = 0)) = false := by
  simp only [State.planFits, Bool.or_eq_false_iff, Bool.not_eq_false', decide_eq_false_iff_not, Nat.not_lt, and_assoc, ne_eq]
  exact ⟨fun ⟨ht, hk, hb, hmax, htok, hf⟩ => ⟨ht, hk, hb, htok, hmax, hf⟩,
    fun ⟨ht, hk, hb, htok, hmax, hf⟩ => ⟨ht, hk, hb, hmax, htok, hf⟩⟩

/-- The state after VALID has been set. -/
def State.validated (s : State) (n : Nat) (v : Word) : State :=
  ((((s.setReg (rPlan n 0) (Word.merge (planMask 0) (s.reg (rPlan n 0)) v)).setRegBit (rPlan n 0) 62
    (s.regBit (rPlan n 0) 62)).setPlanStep n 0).setReg (rPlan n 0x20) (BitVec.ofNat 64 (s.planFrames n)))

section
variable {v : Word} (hidle : s.planValid n = false) (hvalid : v.getLsbD 63 = true) (hkeep : v.getLsbD 62 = false)
include hidle hvalid hkeep

/-- A write that sets VALID is refused for the fields R129 names, or the plan becomes valid. -/
theorem State.planWrite_valid : (s.planFits n v → s.planWrite n 0 v = s.validated n v) ∧
    (¬s.planFits n v → s.planWrite n 0 v = s.rejectPlan n) := by
  have hfield {hi lo : Nat} (m : Nat) (h : ∀ i, i ≤ hi → lo ≤ i → (planMask 0).getLsbD i = true)
      (hm : 2 ^ (hi + 1 - lo) = m) :
      Word.bits ((s.reg (rPlan n 0) &&& ~~~ planMask 0) ||| (v &&& planMask 0)) hi lo = v.toNat / 2 ^ lo % m := by
    rw [← hm]
    exact (Word.bits_merge (planMask 0) _ v h).trans (Word.bits_eq v hi lo)
  unfold State.planWrite
  dsimp only
  rw [hfield 64 (by decide) rfl, hfield 4 (by decide) rfl, hfield (2 ^ 11) (by decide) rfl, hfield (2 ^ 16) (by decide) rfl,
    hidle, hvalid, hkeep, if_neg (show ¬planMask 0 = 0 by decide), if_pos (show (0 : Nat) = 0 from rfl), Bool.and_false,
    if_neg Bool.false_ne_true, Nat.pow_zero, Nat.div_one, Bool.true_and, s.planFits_iff]
  refine ⟨fun hfit => ?_, fun hunfit => if_pos (Bool.not_eq_false _ ▸ hunfit)⟩
  rw [hfit]
  rfl

theorem planWrite_valid_spec (h : s.inService = true) :
    (s.planFits n v → s.planFrames n < 2 ^ 32 → ∃ u, exec (.planWrite n 0 v) s = .next u ∧ u.planValid n = true ∧
      u.planStep n = 0 ∧ u.planTenant n = v.toNat / 2 ^ 40 % 64 ∧ u.regBits (rPlan n 0x20) 31 0 = s.planFrames n) ∧
    (¬s.planFits n v → ∃ u, exec (.planWrite n 0 v) s = .next u ∧ u.planValid n = false ∧ u.regBit (rPlan n 0) 62 = true) := by
  obtain ⟨hfits, hbad⟩ := s.planWrite_valid hidle hvalid hkeep
  refine ⟨fun hfit hframes => ⟨_, planWrite_served s 0 v h, ?_⟩, fun hunfit => ⟨_, planWrite_served s 0 v h, ?_⟩⟩
  · have hctl : (s.validated n v).reg (rPlan n 0) = Word.setBits (Word.merge (planMask 0) (s.reg (rPlan n 0)) v) 62 62
        (if s.regBit (rPlan n 0) 62 then 1 else 0) := by
      simp [State.validated, State.setPlanStep, State.setRegBit, rPlan]
    rw [hfits hfit]
    refine ⟨?_, ?_, ?_, ?_⟩
    · rw [State.planValid, State.regBit, hctl, Word.getLsbD_setBits _ _ _ (by decide) (by decide), if_neg (by decide),
        Word.getLsbD_merge _ _ _ (by decide), hvalid]
    · simp [State.planStep, State.validated, State.setPlanStep, rPlan]
    · rw [State.planTenant, State.regBits, hctl, Word.bits_setBits_other _ _ (by decide) (by decide) (.inl (by decide)),
        Word.bits_merge _ _ _ (by decide)]
      exact Word.bits_eq v 45 40
    · rw [State.regBits, State.validated, State.reg_setReg, if_pos rfl, Word.bits_eq, BitVec.toNat_ofNat]
      omega
  · obtain ⟨hreject, hsame, -⟩ := s.rejectPlan_spec n
    rw [hbad hunfit]
    exact ⟨hsame.trans hidle, hreject⟩
end

end Machine
end Sys2Proof
end

section
/-! PROOF. Tokens posted to Mayfly (R137). -/

namespace Sys2Proof.Machine

variable {s : State} {n id i : Nat} {token : W32}

/- What becomes of a token -/
/-- The token of a crew without a plan belongs to no step. -/
theorem State.mayflyPost_noPlan (hplan : (s.crew? id).bind (·.plan) = none) :
    s.mayflyPost id i token = s.bump rMayfly 15 0 := by
  unfold State.mayflyPost
  rw [hplan]

section
variable {k : Nat} {r : StepRun} (hplan : (s.crew? id).bind (·.plan) = some (n, k)) (hrun : s.stepRun n = some r)
include hplan hrun

theorem State.mayflyPost_noSlot (hslot : r.slots.find? (·.seq == i) = none) :
    s.mayflyPost id i token = s.bump rMayfly 15 0 := by
  unfold State.mayflyPost
  simp only [hplan, hrun, hslot]

variable {sl : SeqSlot} (hslot : r.slots.find? (·.seq == i) = some sl)
include hslot

/-- A slot that reads its prompt wants no token. -/
theorem State.mayflyPost_prompt (hout : sl.out = 0xFFFFFFFF) : s.mayflyPost id i token = s.bump rMayfly 47 32 := by
  unfold State.mayflyPost
  simp only [hplan, hrun, hslot, if_pos hout]

variable (hout : sl.out ≠ 0xFFFFFFFF)
include hout

/-- A slot takes one token, and that while its record is ACTIVE. -/
theorem State.mayflyPost_late (hlate : sl.took = true ∨ s.seqState i ≠ 2) :
    s.mayflyPost id i token = s.bump rMayfly 31 16 := by
  unfold State.mayflyPost
  simp only [hplan, hrun, hslot, if_neg hout]
  exact if_pos (by rw [Bool.or_eq_true, decide_eq_true_eq]; exact hlate)

theorem State.mayflyPost_takes (htook : sl.took = false) (hactive : s.seqState i = 2) :
    s.mayflyPost id i token = s.takeToken n i r token := by
  unfold State.mayflyPost
  simp only [hplan, hrun, hslot, if_neg hout]
  exact if_neg (by simp [htook, hactive, seqACTIVE])
end

/- A token that is counted -/
theorem exec_mayflyPost (s : State) (id i : Nat) (token : W32) : exec (.mayflyPost id i token) s =
    .next (s.wholeEvent (.mayflyPost id i token) (State.mayflyPost · id i token)) := rfl

theorem State.mayflyPost_counts {hi lo : Nat} (hlo : lo ≤ hi) (hhi : hi < 64)
    (hfree : s.untried (.event (.mayflyPost id i token)))
    (hcount : s.unaided.mayflyPost id i token = s.unaided.bump rMayfly hi lo) :
    ∃ u, exec (.mayflyPost id i token) s = .next u ∧ u.mem = s.mem ∧
      u.regBits rMayfly hi lo = (s.regBits rMayfly hi lo + 1) % 2 ^ (hi + 1 - lo) := by
  refine ⟨_, exec_mayflyPost s id i token, ?_⟩
  rw [s.wholeEvent_untried (State.mayflyPost · id i token) hfree (by rw [hcount]; exact State.setReg_wants s.unaided _ _), hcount]
  exact ⟨rfl, (State.regBits_congr rfl _ _ _).trans (s.unaided.regBits_bump 1 hlo hhi)⟩

/- A token that is taken -/
/-- GEN and LAST of a record that takes a token. -/
def State.tokenIn (s : State) (i gen : Nat) (token : W32) : State :=
  (s.putSeq i 100 4 (gen + 1)).putSeq i 104 4 token.toNat

theorem State.tokenIn_spec (s : State) (i gen : Nat) (token : W32) :
    (s.tokenIn i gen token).seqNum i 100 4 = (gen + 1) % 2 ^ 32 ∧ (s.tokenIn i gen token).seqNum i 104 4 = token.toNat ∧
      ∀ off m, off + m ≤ 100 → (s.tokenIn i gen token).seqNum i off m = s.seqNum i off m := by
  refine ⟨?_, ?_, fun off m hoff => ?_⟩
  · rw [State.tokenIn, State.seqNum_putSeq_other _ _ _ (.inl (by decide)), State.seqNum_putSeq_same,
      show 256 ^ 4 = 2 ^ 32 by decide]
  · rw [State.tokenIn, State.seqNum_putSeq_same]
    exact Nat.mod_eq_of_lt token.isLt
  · rw [State.tokenIn, State.seqNum_putSeq_other _ _ _ (.inl (by omega)), State.seqNum_putSeq_other _ _ _ (.inl hoff)]

/-- A record that has taken a token retires at a stop token, or with its last token. -/
def State.tokenEnds (s : State) (i gen : Nat) (token : W32) : State :=
  if (List.range (s.seqNum i 8 8 / 2 ^ 16 % 16)).any fun j => s.seqNum i (32 + 4 * j) 4 == token.toNat then
    s.setSeqState i seqRETIRED 0xC1 true
  else if gen + 1 = s.seqNum i 28 4 then s.setSeqState i seqRETIRED 0xC2 true
  else s

/-- Of a record only its state word changes. -/
theorem State.tokenEnds_keeps (s : State) (i gen : Nat) (token : W32) : (s.tokenEnds i gen token).wants = s.wants ∧
    ∀ off m, 8 ≤ off → (s.tokenEnds i gen token).seqNum i off m = s.seqNum i off m := by
  unfold State.tokenEnds
  split
  · exact ⟨rfl, fun off m h => s.seqNum_setSeqState i _ _ _ h⟩
  · split
    · exact ⟨rfl, fun off m h => s.seqNum_setSeqState i _ _ _ h⟩
    · exact ⟨rfl, fun _ _ _ => rfl⟩

theorem State.tokenEnds_spec (s : State) (i gen : Nat) (token : W32) (hstops : s.seqNum i 8 8 / 2 ^ 16 % 16 ≤ 8) :
    let stop : Prop := ∃ j, j < s.seqNum i 8 8 / 2 ^ 16 % 16 ∧ j < 8 ∧ s.seqNum i (32 + 4 * j) 4 = token.toNat
    let u := s.tokenEnds i gen token
    (stop → u.seqState i = 3 ∧ u.seqNum i 2 1 = 0xC1) ∧
    (¬stop → gen + 1 = s.seqNum i 28 4 → u.seqState i = 3 ∧ u.seqNum i 2 1 = 0xC2) ∧
    (¬stop → gen + 1 ≠ s.seqNum i 28 4 → u.seqState i = s.seqState i) := by
  intro stop u
  have hany : ((List.range (s.seqNum i 8 8 / 2 ^ 16 % 16)).any fun j => s.seqNum i (32 + 4 * j) 4 == token.toNat) = true ↔ stop := by
    simp only [List.any_eq_true, List.mem_range, beq_iff_eq]
    exact ⟨fun ⟨j, hj, h⟩ => ⟨j, hj, by omega, h⟩, fun ⟨j, hj, _, h⟩ => ⟨j, hj, h⟩⟩
  refine ⟨fun hstop => ?_, fun hgo hlast => ?_, fun hgo hmore => ?_⟩
  · have hu : u = s.setSeqState i seqRETIRED 0xC1 true := if_pos (hany.2 hstop)
    rw [hu]
    exact s.setSeqState_spec i true (by decide) (by decide)
  · have hu : u = s.setSeqState i seqRETIRED 0xC2 true := (if_neg (mt hany.1 hgo)).trans (if_pos hlast)
    rw [hu]
    exact s.setSeqState_spec i true (by decide) (by decide)
  · have hu : u = s := (if_neg (mt hany.1 hgo)).trans (if_neg hmore)
    rw [hu]

/-- The step of a plan with a slot's token taken. -/
def StepRun.take (r : StepRun) (i : Nat) : StepRun :=
  { r with slots := r.slots.map fun x => if x.seq = i then { x with took := true } else x }

/-- Once the token's write is done, the record advances and ends, or goes on. -/
theorem State.takeToken_written {r : StepRun} {w : State}
    (hw : (s.setStep n (r.take i)).sysWrite' (some (s.planTenant n)) (s.seqNum i 80 8 + 4 * s.seqNum i 100 4)
      (leBytes 4 token.toNat) = (w, none)) :
    ∃ out, s.takeToken n i r token = ((w.send out).tokenIn i (s.seqNum i 100 4) token).tokenEnds i (s.seqNum i 100 4) token := by
  refine ⟨.token (w.fnPasid (some (s.planTenant n))).1 (s.seqNum i 80 8 + 4 * s.seqNum i 100 4) token, ?_⟩
  unfold State.takeToken
  dsimp only
  rw [StepRun.take] at hw
  rw [hw]
  rfl

/-- A record that takes a token: GEN counts it, LAST is it, and it retires at a stop token or at its last (R137). -/
theorem State.takeToken_spec {r : StepRun} {w : State} (hactive : s.seqState i = 2)
    (hw : (s.setStep n (r.take i)).sysWrite' (some (s.planTenant n)) (s.seqNum i 80 8 + 4 * s.seqNum i 100 4)
      (leBytes 4 token.toNat) = (w, none)) (hsame : ∀ o m, w.seqNum i o m = s.seqNum i o m) :
    let gen := s.seqNum i 100 4
    let stop : Prop := ∃ j, j < s.seqNum i 8 8 / 2 ^ 16 % 16 ∧ j < 8 ∧ s.seqNum i (32 + 4 * j) 4 = token.toNat
    let u := s.takeToken n i r token
    u.wants = w.wants ∧ u.seqNum i 100 4 = (gen + 1) % 2 ^ 32 ∧ u.seqNum i 104 4 = token.toNat ∧
      (s.seqNum i 8 8 / 2 ^ 16 % 16 ≤ 8 →
        (stop → u.seqState i = 3 ∧ u.seqNum i 2 1 = 0xC1) ∧
        (¬stop → gen + 1 = s.seqNum i 28 4 → u.seqState i = 3 ∧ u.seqNum i 2 1 = 0xC2) ∧
        (¬stop → gen + 1 ≠ s.seqNum i 28 4 → u.seqState i = 2)) := by
  intro gen stop u
  obtain ⟨out, hu⟩ : ∃ out, u = ((w.send out).tokenIn i gen token).tokenEnds i gen token := State.takeToken_written hw
  clear_value u
  subst hu
  obtain ⟨hgen, hlast, hkept⟩ := (w.send out).tokenIn_spec i gen token
  obtain ⟨hwants, hrest⟩ := ((w.send out).tokenIn i gen token).tokenEnds_keeps i gen token
  have hends := ((w.send out).tokenIn i gen token).tokenEnds_spec i gen token
  -- below GEN the record is what it was
  have hbelow (off m : Nat) (h : off + m ≤ 100) : ((w.send out).tokenIn i gen token).seqNum i off m = s.seqNum i off m :=
    (hkept off m h).trans (hsame off m)
  have hstop : (∃ j, j < s.seqNum i 8 8 / 2 ^ 16 % 16 ∧ j < 8 ∧
      ((w.send out).tokenIn i gen token).seqNum i (32 + 4 * j) 4 = token.toNat) ↔ stop :=
    exists_congr fun j => and_congr_right fun _ => and_congr_right fun hj => by rw [hbelow _ _ (by omega)]
  have hstate : ((w.send out).tokenIn i gen token).seqState i = 2 :=
    (congrArg (· % 16) (hbelow 0 8 (by decide))).trans hactive
  rw [hbelow 8 8 (by decide), hbelow 28 4 (by decide), hstop, hstate] at hends
  exact ⟨hwants, (hrest 100 4 (by decide)).trans hgen, (hrest 104 4 (by decide)).trans hlast, hends⟩

/-- A token that its slot takes, as the event runs it. -/
theorem mayflyPost_takes_spec {k : Nat} {r : StepRun} {sl : SeqSlot} (hfree : s.untried (.event (.mayflyPost id i token)))
    (hplan : (s.crew? id).bind (·.plan) = some (n, k)) (hrun : s.stepRun n = some r)
    (hslot : r.slots.find? (·.seq == i) = some sl) (hout : sl.out ≠ 0xFFFFFFFF) (htook : sl.took = false)
    (hactive : s.seqState i = 2) :
    let gen := s.seqNum i 100 4
    ∃ u, exec (.mayflyPost id i token) s = .next u ∧
      ∀ w, (s.unaided.setStep n (r.take i)).sysWrite' (some (s.planTenant n)) (s.seqNum i 80 8 + 4 * gen)
        (leBytes 4 token.toNat) = (w, none) → w.wants = [] → (∀ o m, w.seqNum i o m = s.seqNum i o m) →
      let stop : Prop := ∃ j, j < s.seqNum i 8 8 / 2 ^ 16 % 16 ∧ j < 8 ∧ s.seqNum i (32 + 4 * j) 4 = token.toNat
      u.seqNum i 100 4 = (gen + 1) % 2 ^ 32 ∧ u.seqNum i 104 4 = token.toNat ∧
        (s.seqNum i 8 8 / 2 ^ 16 % 16 ≤ 8 →
          (stop → u.seqState i = 3 ∧ u.seqNum i 2 1 = 0xC1) ∧
          (¬stop → gen + 1 = s.seqNum i 28 4 → u.seqState i = 3 ∧ u.seqNum i 2 1 = 0xC2) ∧
          (¬stop → gen + 1 ≠ s.seqNum i 28 4 → u.seqState i = 2)) := by
  intro gen
  refine ⟨_, exec_mayflyPost s id i token, fun w hw hwants hsame => ?_⟩
  have htakes : s.unaided.mayflyPost id i token = s.unaided.takeToken n i r token :=
    State.mayflyPost_takes (s := s.unaided) hplan hrun hslot hout htook hactive
  obtain ⟨hkept, hspec⟩ := State.takeToken_spec (s := s.unaided) hactive hw hsame
  have hmem : (s.wholeEvent (.mayflyPost id i token) (State.mayflyPost · id i token)).mem =
      (s.unaided.takeToken n i r token).mem := by
    rw [s.wholeEvent_untried (State.mayflyPost · id i token) hfree (by rw [htakes]; exact hkept.trans hwants), htakes]
  rw [State.seqNum_congr hmem, State.seqNum_congr hmem, State.seqState_congr hmem, State.seqNum_congr hmem]
  exact hspec

end Sys2Proof.Machine
end

section
/-! PROOF. The end of a crew (R142, R143, R178), and the Pilot's statement put together. -/

namespace Sys2Proof.Machine

variable {s : State} {id i ten : Nat} {cr : Crew}

@[simp] theorem State.delCrew_mem (s : State) (id : Nat) : (s.delCrew id).mem = s.mem := rfl
@[simp] theorem State.dropTry_mem (s : State) (key : Nat) : (s.dropTry key).mem = s.mem := rfl
@[simp] theorem State.crew?_dropTry (s : State) (key x : Nat) : (s.dropTry key).crew? x = s.crew? x := rfl
@[simp] theorem State.crew?_setLaunch (s : State) (t i st reason x : Nat) : (s.setLaunch t i st reason).crew? x = s.crew? x :=
  State.crew?_congr (State.putBytes_pilot s _ _) x
theorem State.crew?_delCrew_same (s : State) (id : Nat) : (s.delCrew id).crew? id = none := by
  simp [State.crew?, State.delCrew, List.find?_filter]

/-- A launch record without a completion record ends with its state word alone (R143). -/
theorem State.endLaunch_quiet (st reason core : Nat) (h : s.launchNum ten i 56 8 = 0) :
    s.endLaunch ten i st reason core = (s.dropTry (launchGate ten i)).setLaunch ten i st reason := by
  unfold State.endLaunch State.complete
  exact if_pos h

/-- A crew that is not over goes on. -/
theorem crewEnd_early (hcr : s.crew? id = some cr) (hover : cr.isOver = false) : exec (.crewEnd id) s = .next s := by
  show execCrewEnd id s = _
  simp only [execCrewEnd, hcr, hover, Bool.not_false, if_true]

/-- The end of a launched crew: what its commands owe is paid, it is gone, and its launch record ends. -/
theorem crewEnd_launched (hcr : s.crew? id = some cr) (hover : cr.isOver = true) (hten : cr.tenant = some ten)
    (hlaunch : cr.launch = some i) {reason core : Nat} (hend : cr.ending.getD (0, 0xFFFF) = (reason, core)) :
    exec (.crewEnd id) s = .next ((((s.payOwed id).delCrew id).dropTry (crewGate id)).endLaunch ten i
      (if reason = 0 then launchDONE else launchFAILED) reason core) := by
  show execCrewEnd id s = _
  simp only [execCrewEnd, hcr, hover, hten, hlaunch, hend, Bool.not_true, Bool.false_eq_true, if_false]

/-- A launched crew that is over is gone, and its launch record is DONE, or FAILED with the reason (R142). -/
theorem crewEnd_launched_spec (hcr : s.crew? id = some cr) (hover : cr.isOver = true) (hten : cr.tenant = some ten)
    (hlaunch : cr.launch = some i) (hquiet : s.launchNum ten i 56 8 = 0) :
    ∃ u, exec (.crewEnd id) s = .next u ∧ u.crew? id = none ∧
      ((∀ rc, cr.ending = some rc → rc.1 = 0) → u.launchState ten i = 3) ∧
      (∀ rc, cr.ending = some rc → 0 < rc.1 → rc.1 < 256 → u.launchState ten i = 4 ∧ u.launchNum ten i 2 1 = rc.1) := by
  obtain ⟨⟨reason, core⟩, hend⟩ : ∃ rc, cr.ending.getD (0, 0xFFFF) = rc := ⟨_, rfl⟩
  have hmem : (((s.payOwed id).delCrew id).dropTry (crewGate id)).mem = s.mem := by
    rw [State.dropTry_mem, State.delCrew_mem, (CrewWork.payOwed s id).mem]
  have hquiet' := (State.launchNum_congr hmem ten i 56 8).trans hquiet
  refine ⟨_, crewEnd_launched hcr hover hten hlaunch hend, ?_⟩
  rw [State.endLaunch_quiet _ _ _ hquiet']
  refine ⟨by rw [State.crew?_setLaunch, State.crew?_dropTry, State.crew?_dropTry, State.crew?_delCrew_same],
    fun hdone => ?_, fun rc hrc hpos hlt => ?_⟩
  · have hzero : reason = 0 := by
      cases hending : cr.ending with
      | none => rw [hending] at hend; exact (congrArg Prod.fst hend).symm
      | some rc => rw [hending] at hend; exact (congrArg Prod.fst hend).symm.trans (hdone rc hending)
    subst hzero
    exact (State.setLaunch_spec _ ten i (by decide) (by decide)).1
  · rw [hrc] at hend
    obtain rfl : rc = (reason, core) := hend
    rw [if_neg (Nat.ne_of_gt hpos)]
    exact State.setLaunch_spec _ ten i (by decide) hlt

/-- Settles O57: a pass, a gate, a plan's registers, a token and a crew's end, each by the lemma on its event. -/
theorem pilotWork : Obligations.PilotWork := by
  intro s p n id i v token cr
  refine ⟨schedPass_idle s, gateWaitExpiry_retries s p, fun hboot hstage off => planWrite_ignored s off v hboot hstage,
    fun k hserv _ hk => planWrite_kernel_spec s v hk hserv,
    fun hserv _ hidle hvalid hkeep => planWrite_valid_spec s hidle hvalid hkeep hserv, fun hfree => ?_,
    fun hcr => ⟨crewEnd_early hcr, fun _ hover hten hlaunch hquiet => crewEnd_launched_spec hcr hover hten hlaunch hquiet⟩⟩
  refine ⟨fun hplan => ?_, fun k r hplan hrun => ⟨fun hslot => ?_, fun sl hslot => ⟨fun hout => ?_, fun hout hlate => ?_,
    fun hout htook hactive _ => ?_⟩⟩⟩
  · exact State.mayflyPost_counts (by decide) (by decide) hfree (State.mayflyPost_noPlan (s := s.unaided) hplan)
  · exact State.mayflyPost_counts (by decide) (by decide) hfree (State.mayflyPost_noSlot (s := s.unaided) hplan hrun hslot)
  · exact State.mayflyPost_counts (by decide) (by decide) hfree
      (State.mayflyPost_prompt (s := s.unaided) hplan hrun hslot hout)
  · exact State.mayflyPost_counts (by decide) (by decide) hfree
      (State.mayflyPost_late (s := s.unaided) hplan hrun hslot hout hlate)
  · exact mayflyPost_takes_spec hfree hplan hrun hslot hout htook hactive

end Sys2Proof.Machine
end
